-- ==== Sys2Proof/Word.lean ====
section
/-! DEFINITION. The fixed widths of spec/00_scope.md R8. -/

namespace Sys2Proof

/-- A byte: 8 bits (R8). -/
abbrev Byte := BitVec 8

/-- A PCM sample's two's complement pattern: 16 bits (R8). -/
abbrev Half := BitVec 16

/-- The immediate of a format I command: 24 bits, unsigned (R8, R82). -/
abbrev Imm24 := BitVec 24

/-- A bus word, a register, a command word or a binary32 pattern: 32 bits (R8). -/
abbrev Word := BitVec 32

end Sys2Proof
end

