-- ==== Sys2Proof/Syntax.lean ====
section
/-! DEFINITION. The six commands of spec/30_encoding.md R83, one constructor per row of spec/opcode_table.json. -/

namespace Sys2Proof

/-- A command. An operand is the 24-bit immediate of format I (R81, R82), so every term is well formed by its type. -/
inductive Instr where
  /-- `INIT`, format Z: latch the stream format (R100). -/
  | init
  /-- `RESET`, format Z: return to the reset state (R101). -/
  | reset
  /-- `PULL req`, format I: one pull cycle asking the source for `req` bytes (R115). -/
  | pull (req : Imm24)
  /-- `RDREQ count`, format I: open a read request of `count` bytes (R140). -/
  | rdreq (count : Imm24)
  /-- `ENCODE m`, format I: encode the first `m` frames of `OUTBLK` (R145). -/
  | encode (m : Imm24)
  /-- `PAD`, format Z: complete the open read request with zero bytes (R150). -/
  | pad
  deriving DecidableEq, Repr

end Sys2Proof
end

