-- ==== Sys2Proof/WellFormed.lean ====
section
/-! DEFINITION. When a command word is well formed: the rows of spec/30_encoding.md R83 and the two formats of R81.
A term of `Instr` needs no check (its operand has the field's own width); the check is on words. -/

namespace Sys2Proof

/-- The two formats of R81. -/
inductive Format where
  /-- No operand: `word[23:0]` must be 0. -/
  | z
  /-- One immediate: `word[23:0]` is `imm24`. -/
  | i
  deriving DecidableEq, Repr

/-- One row of the table of R83. -/
structure Row where
  /-- The mnemonic as spec/opcode_table.json spells it. -/
  mnemonic : String
  /-- The format, R81. -/
  format : Format
  /-- The opcode, `word[31:24]`. -/
  op : Byte
  /-- The match value of R83. -/
  pattern : Word
  /-- The mask value of R83. -/
  mask : Word
  deriving DecidableEq, Repr

/-- The six rows of R83 with their match and mask values. -/
def rows : List Row :=
  [ ⟨"INIT",   .z, 0x01, 0x01000000, 0xFFFFFFFF⟩,
    ⟨"RESET",  .z, 0x02, 0x02000000, 0xFFFFFFFF⟩,
    ⟨"PULL",   .i, 0x10, 0x10000000, 0xFF000000⟩,
    ⟨"RDREQ",  .i, 0x20, 0x20000000, 0xFF000000⟩,
    ⟨"ENCODE", .i, 0x21, 0x21000000, 0xFF000000⟩,
    ⟨"PAD",    .z, 0x22, 0x22000000, 0xFFFFFFFF⟩ ]

/-- "A word `w` spells a command when `w & mask = match`" (R83). -/
def Row.spells (r : Row) (w : Word) : Bool := w &&& r.mask == r.pattern

/-- A word is well formed when some row spells it; every other word is illegal (R85). -/
def wordWellFormed (w : Word) : Bool := rows.any (·.spells w)

end Sys2Proof
end

