-- ==== Sys2Proof/Decode.lean ====
section
/-! DEFINITION. The command decoder, total on every 32-bit word and rejecting by name (spec/30_encoding.md R81 to R85),
and the encoder of the same table. -/

namespace Sys2Proof

/-- Why a word is illegal (the two kinds R85 lists). -/
inductive Illegal where
  /-- `op` is none of the six opcodes. -/
  | unknownOpcode (op : Byte)
  /-- A format Z opcode with `word[23:0] != 0`. -/
  | nonzeroField (op : Byte) (low : Imm24)
  deriving DecidableEq, Repr

/-- What the decoder answers for a word. -/
inductive Decoded where
  /-- The word spells this command. -/
  | cmd (i : Instr)
  /-- The word is illegal (R85). -/
  | illegal (why : Illegal)
  deriving DecidableEq, Repr

/-- `op = word[31:24]` (R81). -/
def opField (w : Word) : Byte := w.extractLsb' 24 8

/-- `imm24 = word[23:0]` (R81). -/
def immField (w : Word) : Imm24 := w.extractLsb' 0 24

/-- Format Z: the command stands when `word[23:0]` is 0, else the word is illegal (R81, R85). -/
def decodeZ (i : Instr) (w : Word) : Decoded :=
  if immField w = 0 then .cmd i else .illegal (.nonzeroField (opField w) (immField w))

/-- The decoder: the opcode map of R83, everything else illegal (R85). -/
def decode (w : Word) : Decoded :=
  if opField w = 0x01 then decodeZ .init w
  else if opField w = 0x02 then decodeZ .reset w
  else if opField w = 0x10 then .cmd (.pull (immField w))
  else if opField w = 0x20 then .cmd (.rdreq (immField w))
  else if opField w = 0x21 then .cmd (.encode (immField w))
  else if opField w = 0x22 then decodeZ .pad w
  else .illegal (.unknownOpcode (opField w))

/-- The opcode of a command (R83). -/
def opcode : Instr → Byte
  | .init => 0x01
  | .reset => 0x02
  | .pull _ => 0x10
  | .rdreq _ => 0x20
  | .encode _ => 0x21
  | .pad => 0x22

/-- What stands in `word[23:0]`: the immediate, or 0 in format Z (R81). -/
def lowField : Instr → Imm24
  | .init => 0
  | .reset => 0
  | .pull req => req
  | .rdreq count => count
  | .encode m => m
  | .pad => 0

/-- The encoder: the command word of R83, `op` above the 24-bit field. -/
def encode (i : Instr) : Word := opcode i ++ lowField i

/-- The instruction the decoder reads from an instruction word of the opcode table (a command is one 32-bit word, R80;
bits the table leaves out are 0). -/
def decodeTableWord (nbits w : Nat) : Option Instr :=
  match decode (BitVec.ofNat 32 (w % 2 ^ nbits)) with
  | .cmd i => some i
  | .illegal _ => none

end Sys2Proof
end

