-- ==== Sys2Proof/Config.lean ====
section
/-! DEFINITION. What an implementation fixes (BLK, CHMAX, EncNaN) and the free values of the model. -/

namespace Sys2Proof

/-- The two build-time parameters with the constraints R6 puts on them: `blk` is `BLK`, the block frame capacity,
and `chmax` is `CHMAX`, the largest channel count. No value of this type breaks a constraint. -/
structure Params where
  /-- `BLK`, R6. -/
  blk : Nat
  /-- `CHMAX`, R6. -/
  chmax : Nat
  /-- `BLK >= 1`, R6. -/
  blk_pos : 1 ≤ blk := by decide
  /-- `1 <= CHMAX`, R6. -/
  chmax_pos : 1 ≤ chmax := by decide
  /-- `CHMAX <= 255`, R6. -/
  chmax_le : chmax ≤ 255 := by decide
  /-- `CHMAX * BLK <= 2^26`, R6: each float window fits its region. -/
  window_le : chmax * blk ≤ 2 ^ 26 := by decide
  deriving DecidableEq, Repr

/-- The build's `CHMAX`, uninterpreted (R6, D3; notes/assumptions/1.md): only its residue is used, see `Config.params`. -/
opaque Config.rawChmax : Nat

/-- The build's `BLK`, uninterpreted (R6, D3; notes/assumptions/1.md): only its residue is used, see `Config.params`. -/
opaque Config.rawBlk : Nat

/-- The parameters of the build at `State.reset`. Every pair R6 allows is the value of this for some raw pair, and
nothing but R6's constraints can be proved of it (notes/assumptions/1.md). -/
def Config.params : Params where
  chmax := Config.rawChmax % 255 + 1
  blk := Config.rawBlk % (2 ^ 26 / (Config.rawChmax % 255 + 1)) + 1
  blk_pos := Nat.le_add_left _ _
  chmax_pos := Nat.le_add_left _ _
  chmax_le := Nat.mod_lt _ (by decide)
  window_le := by
    have hc : Config.rawChmax % 255 + 1 ≤ 2 ^ 26 := by omega
    have hq : 0 < 2 ^ 26 / (Config.rawChmax % 255 + 1) := Nat.div_pos hc (Nat.succ_pos _)
    have hb : Config.rawBlk % (2 ^ 26 / (Config.rawChmax % 255 + 1)) + 1 ≤ 2 ^ 26 / (Config.rawChmax % 255 + 1) :=
      Nat.mod_lt _ hq
    calc (Config.rawChmax % 255 + 1) * (Config.rawBlk % (2 ^ 26 / (Config.rawChmax % 255 + 1)) + 1)
        ≤ (Config.rawChmax % 255 + 1) * (2 ^ 26 / (Config.rawChmax % 255 + 1)) := Nat.mul_le_mul_left _ hb
      _ ≤ 2 ^ 26 := Nat.mul_div_le _ _

/-- `EncNaN` of R133: the 16-bit two's complement pattern a NaN encodes to, a function of the NaN's pattern alone, of
which nothing else is known (D21; notes/assumptions/2.md). -/
opaque Config.encNaN : Word → Half

/-- A free 32-bit value: what a window word not written since reset reads as, one draw number for each read
(R48, U2; notes/assumptions/3.md). -/
opaque Config.freeWord : Nat → Word

/-- A free source answer, before it is cut to the bytes asked for (R66; notes/assumptions/4.md). -/
opaque Config.freeAnswer : Nat → List Byte

end Sys2Proof
end

