-- ==== Sys2Proof/Machine/State.lean ====
section
/-! DEFINITION. The state of the block and of the ports around it, as plain data (spec/10_state.md), and its value
right after reset (R48). -/

namespace Sys2Proof.Machine

/-- `MODE` (R22); value 3 is never taken. -/
inductive Mode where
  /-- 0: reset state, no stream format latched. -/
  | unconf
  /-- 1: a conforming format is latched. -/
  | ready
  /-- 2: a configuration error or a command fault happened. -/
  | failed
  deriving DecidableEq, Repr

/-- The cause recorded in `ERRCODE` (R190). -/
inductive Cause where
  /-- 0: no fault. -/
  | none
  /-- 1: INIT with `FMT_BITS != 16`. -/
  | cfgBits
  /-- 2: INIT with `FMT_CH = 0` or `FMT_CH > CHMAX`. -/
  | cfgCh
  /-- 3: the word matches no command. -/
  | illegal
  /-- 4: the command is not legal in the current mode. -/
  | badMode
  /-- 5: an operand too large. -/
  | operand
  /-- 6: a command out of order. -/
  | order
  deriving DecidableEq, Repr

/-- One pulse of an event output (R200, R201). -/
inductive Event where
  /-- `ev_src`: "source data was just pulled". -/
  | src
  /-- `ev_eos`: "end-of-stream reached". -/
  | eos
  deriving DecidableEq, Repr

/-- A bus transaction as an initiator presents it (R49, R160, R161). `width` is in bits: only 32 is accepted (R68). -/
inductive BusTxn where
  /-- A read at a byte address. -/
  | read (width : Nat) (addr : Word)
  /-- A write of a word at a byte address. -/
  | write (width : Nat) (addr data : Word)
  deriving DecidableEq, Repr

/-- What makes the block step: a bus transaction or `rst` (R203, R220). -/
inductive HostEvent where
  /-- A bus transaction alone. -/
  | bus (t : BusTxn)
  /-- The `rst` input, perhaps with a bus transaction presented at the same time (R220). -/
  | rst (together : Option BusTxn)
  deriving DecidableEq, Repr

/-- The bus response to the initiator (R49, R162). -/
inductive BusResp where
  /-- The data of a read. -/
  | data (w : Word)
  /-- A write accepted. -/
  | ok
  /-- The error response: an access the block does not accept. -/
  | busError
  deriving DecidableEq, Repr

/-- What the source does with one `SrcRead` (R66, U6). -/
inductive SrcAnswer where
  /-- It offers these bytes, of which the first `req` are the answer. -/
  | bytes (b : List Byte)
  /-- It never answers. -/
  | never
  deriving DecidableEq, Repr

/-- Why the machine stops. -/
inductive Fault where
  /-- Raised by PULL when the source never answers `SrcRead`: the command never completes and the block serves nothing
  else (U6, R66, R233). Safe: the hardware does not go on either. -/
  | sourceNeverAnswers
  deriving DecidableEq, Repr

/-- Why a command has no meaning in the model. -/
inductive Refusal where
  /-- Raised by an arm of `exec` whose command has no meaning yet; no arm does. Safe: the model stops. -/
  | notModelled (mnemonic : String)
  deriving DecidableEq, Repr

/-- The bus-addressed memory (both float windows) as cells of one byte, addresses strictly rising; an address not
listed has no value (R48; notes/assumptions/8.md). -/
abbrev Memory := List Host.Cell

/-- The canonical form: addresses strictly rising (an unlisted address has no value, so no entry can equal it). -/
abbrev Memory.wf (m : Memory) : Prop := m.Pairwise (fun x y => x.1 < y.1)

/-- Everything the spec gives the machine, the ports' inputs and outputs, and the counter of free values. -/
structure State where
  /-- `BLK` and `CHMAX`, constants of the build (R6, R33; notes/assumptions/1.md). -/
  params : Params
  /-- `MODE` (R22). -/
  mode : Mode
  /-- `CH`, the latched channel count, 8 bits (R23). -/
  ch : BitVec 8
  /-- `ERRCODE[7:0]` by name (R27). -/
  errcode : Cause
  /-- `ERRCMD` (R28). -/
  errcmd : Word
  /-- `FMT_RATE` (R29). -/
  fmtRate : Word
  /-- `FMT_CH` (R30). -/
  fmtCh : Word
  /-- `FMT_BITS` (R31). -/
  fmtBits : Word
  /-- `REMAIN`, 24 bits (R34). -/
  remain : BitVec 24
  /-- `NIN`, wide enough for `0..BLK` (R36; notes/assumptions/18.md). -/
  nin : Nat
  /-- `KLAST`, 24 bits (R37). -/
  klast : BitVec 24
  /-- `EOS`, sticky (R44). -/
  eos : Bool
  /-- `ILQ`, the Input Leftover Queue, oldest byte first (R39). -/
  ilq : List Byte
  /-- `OLQ`, the Output Leftover Queue, oldest byte first (R40). -/
  olq : List Byte
  /-- `SCRATCH[0..)`, as far as PULL has written it since reset (R41; notes/assumptions/11.md). -/
  scratch : List Byte
  /-- `INBLK` and `OUTBLK` at their bus addresses, the words written since reset (R42, R43, R62). -/
  mem : Memory
  /-- `DST`, every byte delivered, oldest first (R47). -/
  dst : List Byte
  /-- The event trace, oldest first (R47). -/
  events : List Event
  /-- The model's own: the bus responses given, oldest first (R49; notes/assumptions/9.md). -/
  resp : List BusResp
  /-- The model's own: what has arrived and is not served yet, first to be served first (R13, R71;
  notes/assumptions/6.md). -/
  pending : List HostEvent
  /-- The model's own: what the source will do with the next requests; free when empty (R66; notes/assumptions/4.md). -/
  source : List SrcAnswer
  /-- The model's own: how many free values have been drawn (R48, U2; notes/assumptions/3.md). -/
  draws : Nat
  deriving DecidableEq, Repr

/-- The state after reset (R48, R221) of a build with parameters `p`, at the model's start. -/
def State.resetWith (p : Params) : State where
  params := p
  mode := .unconf
  ch := 0
  errcode := .none
  errcmd := 0
  fmtRate := 0
  fmtCh := 0
  fmtBits := 0
  remain := 0
  nin := 0
  klast := 0
  eos := false
  ilq := []
  olq := []
  scratch := []
  mem := []
  dst := []
  events := []
  resp := []
  pending := []
  source := []
  draws := 0

/-- The machine right after reset (R48, R221); the parameters are the build's, uninterpreted. -/
def State.reset : State := State.resetWith Config.params

end Sys2Proof.Machine
end

