-- ==== Sys2Proof/Machine/Ops.lean ====
section
/-! DEFINITION. The named operations over memory, registers, queues and ports; fault entry and the way out of it. -/

namespace Sys2Proof.Machine

/-! ### Memory: one byte, then one word (R62, R65) -/

/-- The byte at an address, or nothing where nothing was written since reset. -/
def Memory.readByte : Memory → Nat → Option Byte
  | [], _ => none
  | (k, v) :: rest, a => if k = a then some v else Memory.readByte rest a

/-- Write one byte, keeping the canonical form. -/
def Memory.writeByte : Memory → Nat → Byte → Memory
  | [], a, b => [(a, b)]
  | (k, v) :: rest, a, b =>
    if a < k then (a, b) :: (k, v) :: rest
    else if k = a then (a, b) :: rest
    else (k, v) :: Memory.writeByte rest a b

/-- The word whose four cells start at `a`, when all four are written. The order of the cells is the model's own and
cannot be observed: every access is a whole aligned word (R65, R68; notes/assumptions/8.md). -/
def Memory.readWord (m : Memory) (a : Nat) : Option Word :=
  match m.readByte a, m.readByte (a + 1), m.readByte (a + 2), m.readByte (a + 3) with
  | some b0, some b1, some b2, some b3 => some (b3 ++ b2 ++ b1 ++ b0)
  | _, _, _, _ => none

/-- Write the four cells of a word. -/
def Memory.writeWord (m : Memory) (a : Nat) (w : Word) : Memory :=
  (((m.writeByte a (w.extractLsb' 0 8)).writeByte (a + 1) (w.extractLsb' 8 8)).writeByte (a + 2)
    (w.extractLsb' 16 8)).writeByte (a + 3) (w.extractLsb' 24 8)

/-! ### Derived quantities (R7) -/

/-- `ceildiv(a, b) = (a + b - 1) div b` (R10). -/
def ceildiv (a b : Nat) : Nat := (a + b - 1) / b

/-- `BPF = 2 * CH` (R7, R32). -/
def State.bpf (s : State) : Nat := 2 * s.ch.toNat

/-- `SCAP = BLK * BPF`, the capacity of `SCRATCH` and of `OLQ` (R7). -/
def State.scap (s : State) : Nat := s.params.blk * s.bpf

/-- `FWANT = min(ceildiv(REMAIN, BPF), BLK)` in READY, 0 in the other modes (R35). -/
def State.fwant (s : State) : Nat :=
  match s.mode with
  | .ready => min (ceildiv s.remain.toNat s.bpf) s.params.blk
  | .unconf => 0
  | .failed => 0

/-- `4 * CHMAX * BLK`, the first unmapped offset of a float window (R61). -/
def windowBytes (p : Params) : Nat := 4 * p.chmax * p.blk

/-- The bus address of `INBLK[c][i]` (R62). -/
def inAddr (p : Params) (c i : Nat) : Nat := 0x10000000 + 4 * (c * p.blk + i)

/-- The bus address of `OUTBLK[c][i]` (R62). -/
def outAddr (p : Params) (c i : Nat) : Nat := 0x20000000 + 4 * (c * p.blk + i)

/-- The lanes of `n` whole frames of `ch` channels in interleaved order: frame 0 first, channel 0 first inside a frame
(R64). A lane is (frame, channel). -/
def lanes (n ch : Nat) : List (Nat × Nat) :=
  (List.range n).flatMap fun i => (List.range ch).map fun c => (i, c)

/-! ### Codes (R22, R190) -/

/-- The two bits of `MODE` (R22). -/
def Mode.code : Mode → BitVec 2
  | .unconf => 0
  | .ready => 1
  | .failed => 2

/-- The cause code `ERRCODE[7:0]` (R190). -/
def Cause.code : Cause → Byte
  | .none => 0
  | .cfgBits => 1
  | .cfgCh => 2
  | .illegal => 3
  | .badMode => 4
  | .operand => 5
  | .order => 6

/-! ### Ports (R49) -/

/-- `DstWrite` of a byte sequence: appended to `DST` in order, never refused (R67). -/
def State.dstWrite (s : State) (b : List Byte) : State := { s with dst := s.dst ++ b }

/-- Deliver `bytes` to `DST`, leave `staged` in `OLQ` and `rest` bytes of the read request (R140, R145). -/
def State.deliver (s : State) (bytes staged : List Byte) (rest : Nat) : State :=
  { s with dst := s.dst ++ bytes, olq := staged, remain := BitVec.ofNat 24 rest }

/-- `REMAIN <- 0`, `EOS <- 1` (R150). -/
def State.closeRequest (s : State) : State := { s with remain := 0, eos := true }

/-- `n` free values used up (notes/assumptions/3.md). -/
def State.useDraws (s : State) (n : Nat) : State := { s with draws := s.draws + n }

/-- `pulse ev`: one pulse on the event trace (R11, R47). -/
def State.pulse (s : State) (ev : Event) : State := { s with events := s.events ++ [ev] }

/-- The bus response of the transaction being served (R49). -/
def State.respond (s : State) (r : BusResp) : State := { s with resp := s.resp ++ [r] }

/-- `SrcRead(req)`'s answer `B`, `|B| <= req` (R66): nothing for a request of no bytes, else the first `req` bytes of
what the source offers, a free offer where `source` names none; `none` when the source never answers (U6).
notes/assumptions/4.md, notes/assumptions/5.md. -/
def State.srcAnswer (s : State) (req : Nat) : Option (List Byte) :=
  if req = 0 then some []
  else
    match s.source with
    | [] => some ((Config.freeAnswer s.draws).take req)
    | .bytes b :: _ => some (b.take req)
    | .never :: _ => none

/-- The source after answering `SrcRead(req)`. -/
def State.srcAdvance (s : State) (req : Nat) : State :=
  if req = 0 then s
  else
    match s.source with
    | [] => { s with draws := s.draws + 1 }
    | _ :: rest => { s with source := rest }

/-! ### Faults and reset -/

/-- Fault entry, `raise Fault(cause)` during command word `w`: exactly three registers are written (R193). -/
def State.takeFault (s : State) (cause : Cause) (w : Word) : State :=
  { s with errcode := cause, errcmd := w, mode := .failed }

/-- Reset, the only way out of FAILED (R197): every state element to its reset value (R48, R101, R220); the build's
parameters, the bytes delivered, the event trace, the source and what else is outside the block stay (R222). -/
def State.resetBlock (s : State) : State :=
  { State.resetWith s.params with
    dst := s.dst, events := s.events, resp := s.resp, pending := s.pending, source := s.source, draws := s.draws }

/-- The mode check of the four stream commands (R192): executed in READY, BADMODE in UNCONF, discarded in FAILED
(R84, R196). `i` is the command being executed, whose word ERRCMD records. -/
def readyOnly (i : Instr) (s : State) (run : Host.Outcome State Fault Refusal) : Host.Outcome State Fault Refusal :=
  match s.mode with
  | .ready => run
  | .unconf => .next (s.takeFault .badMode (encode i))
  | .failed => .next s

/-- The mode check of INIT (R192): executed in UNCONF, BADMODE in READY, discarded in FAILED. -/
def unconfOnly (i : Instr) (s : State) (run : Host.Outcome State Fault Refusal) : Host.Outcome State Fault Refusal :=
  match s.mode with
  | .unconf => run
  | .ready => .next (s.takeFault .badMode (encode i))
  | .failed => .next s

end Sys2Proof.Machine
end

