-- ==== Sys2Proof/Machine/Operands.lean ====
section
/-! DEFINITION. Every operand form: the 24-bit immediate of a command and the absolute address of a bus access. -/

namespace Sys2Proof.Machine

/-- A command's immediate as a count: unsigned, zero-extended, never scaled (R82). -/
abbrev immValue (imm : Imm24) : Nat := imm.toNat

/-- The registers of bus region 0 (R24). -/
inductive Reg where
  | cmd | status | errcode | errcmd | fmtRate | fmtCh | fmtBits | bpf
  | blkcap | chcap | remain | fwant | nin | klast | ilqlvl | olqlvl
  deriving DecidableEq, Repr

/-- The byte offset of a register (R24). -/
def Reg.offset : Reg → Nat
  | .cmd => 0x00
  | .status => 0x04
  | .errcode => 0x08
  | .errcmd => 0x0C
  | .fmtRate => 0x10
  | .fmtCh => 0x14
  | .fmtBits => 0x18
  | .bpf => 0x1C
  | .blkcap => 0x20
  | .chcap => 0x24
  | .remain => 0x28
  | .fwant => 0x2C
  | .nin => 0x30
  | .klast => 0x34
  | .ilqlvl => 0x38
  | .olqlvl => 0x3C

/-- All registers, in the order of their offsets. -/
def Reg.all : List Reg :=
  [.cmd, .status, .errcode, .errcmd, .fmtRate, .fmtCh, .fmtBits, .bpf,
   .blkcap, .chcap, .remain, .fwant, .nin, .klast, .ilqlvl, .olqlvl]

/-- The register at an offset; offsets 0x40 and above are unmapped (R24). -/
def Reg.atOffset (off : Nat) : Option Reg := Reg.all.find? (fun r => r.offset == off)

/-- The bus address of a register: region 0 (R61). -/
def Reg.addr (r : Reg) : Word := BitVec.ofNat 32 r.offset

/-- What a bus address selects (R61). -/
inductive Target where
  /-- A register. -/
  | reg (r : Reg)
  /-- `INBLK[c][i]`. -/
  | inblk (c i : Nat)
  /-- `OUTBLK[c][i]`. -/
  | outblk (c i : Nat)
  /-- A misaligned or unmapped address. -/
  | absent
  deriving DecidableEq, Repr

/-- `addr[31:28]` (R61). -/
def regionOf (addr : Word) : Nat := (addr.extractLsb' 28 4).toNat

/-- `addr[27:0]` (R61). -/
def offsetOf (addr : Word) : Nat := (addr.extractLsb' 0 28).toNat

/-- The one addressing mode, absolute (R160): alignment, then region, then offset (R61, R62, R160, R161). -/
def target (p : Params) (addr : Word) : Target :=
  if (addr.extractLsb' 0 2).toNat ≠ 0 then .absent
  else if regionOf addr = 0 then
    match Reg.atOffset (offsetOf addr) with
    | some r => .reg r
    | none => .absent
  else if regionOf addr = 1 ∧ offsetOf addr < windowBytes p then
    .inblk (offsetOf addr / 4 / p.blk) (offsetOf addr / 4 % p.blk)
  else if regionOf addr = 2 ∧ offsetOf addr < windowBytes p then
    .outblk (offsetOf addr / 4 / p.blk) (offsetOf addr / 4 % p.blk)
  else .absent

end Sys2Proof.Machine
end

