-- ==== Sys2Proof/Machine/Configuration.lean ====
section
/-! DEFINITION. The configuration commands INIT and RESET (spec/40_config_commands.md). -/

namespace Sys2Proof.Machine

/-- `INIT` (R100): UNCONF only; FMT_BITS, then FMT_CH are checked, on the full 32-bit registers; then the channel count
is latched. -/
def execInit (s : State) : Host.Outcome State Fault Refusal :=
  unconfOnly .init s <|
    if s.fmtBits.toNat ≠ 16 then .next (s.takeFault .cfgBits (encode .init))
    else if s.fmtCh.toNat < 1 ∨ s.params.chmax < s.fmtCh.toNat then .next (s.takeFault .cfgCh (encode .init))
    else .next { s with ch := s.fmtCh.extractLsb' 0 8, mode := .ready }

/-- `RESET` (R101): legal in every mode; the same effect as `rst` (R220). -/
def execReset (s : State) : Host.Outcome State Fault Refusal := .next s.resetBlock

end Sys2Proof.Machine
end

