-- ==== Sys2Proof/Machine/Codec.lean ====
section
/-! DEFINITION. The sample codec: `Dec16` (R110 to R113) and `Enc16` (R130 to R135). -/

namespace Sys2Proof.Machine

/-! ### binary32 (R12, R65; notes/assumptions/12.md) -/

/-- Bits 30:23, the biased exponent. -/
def f32Exp (w : Word) : Nat := (w.extractLsb' 23 8).toNat

/-- Bits 22:0, the fraction. -/
def f32Frac (w : Word) : Nat := (w.extractLsb' 0 23).toNat

/-- Bit 31, the sign. -/
def f32Neg (w : Word) : Bool := w.msb

/-- `isNaN(w)`: `w[30:23] = 255` and `w[22:0] != 0` (R12). -/
def isNaN (w : Word) : Bool := f32Exp w == 255 && f32Frac w != 0

/-- `2^149`: the real 1.0 in the unit `2^-149`, of which every finite binary32 value is a whole multiple. -/
def f32One : Int := ((2 ^ 149 : Nat) : Int)

/-- `|val(w)|` in units of `2^-149`; an infinity comes out as `2^128`, above every finite value. -/
def f32Mag (w : Word) : Nat :=
  if f32Exp w = 0 then f32Frac w else (2 ^ 23 + f32Frac w) * 2 ^ (f32Exp w - 1)

/-- `val(w)` in units of `2^-149`, exact (R12). -/
def f32Units (w : Word) : Int := if f32Neg w then -(f32Mag w : Int) else (f32Mag w : Int)

/-! ### Integers (R10) -/

/-- `sext_16(u)` (R10). -/
def sext16 (u : Nat) : Int := if u < 32768 then (u : Int) else (u : Int) - 65536

/-- `u16(s) = s mod 65536` (R10). -/
def u16 (s : Int) : Half := BitVec.ofInt 16 s

/-- `clamp(lo, hi, s) = max(lo, min(hi, s))` (R10). -/
def clamp (lo hi s : Int) : Int := max lo (min hi s)

/-! ### Decode -/

/-- The signed sample of a low and a high byte (R110, R63). -/
def pcmValue (lo hi : Byte) : Int := sext16 (lo.toNat + 256 * hi.toNat)

/-- `F32(s / 32768)` for a signed 16-bit sample, by the pattern R111 gives: zero, or the sign, exponent field `e + 112`
and fraction `(a - 2^e) * 2^(23 - e)` with `e` the highest set bit of `a = |s|`. -/
def f32OfSample (s : Int) : Word :=
  if s = 0 then 0
  else
    BitVec.ofBool (decide (s < 0)) ++ BitVec.ofNat 8 (s.natAbs.log2 + 112) ++
      BitVec.ofNat 23 ((s.natAbs - 2 ^ s.natAbs.log2) * 2 ^ (23 - s.natAbs.log2))

/-- `Dec16(lo, hi)` (R110). -/
def dec16 (lo hi : Byte) : Word := f32OfSample (pcmValue lo hi)

/-- The sample of lane (`i`, `c`) of an interleaved byte sequence: bytes `i*BPF + 2*c` and the next (R64, R113). -/
def laneDecode (bpf : Nat) (bytes : List Byte) (i c : Nat) : Word :=
  dec16 (bytes.getD (i * bpf + 2 * c) 0) (bytes.getD (i * bpf + 2 * c + 1) 0)

/-- De-interleaving (R113): every lane of the first `n` frames of `bytes` decoded into `INBLK`. -/
def decodeFrames (p : Params) (ch n : Nat) (bytes : List Byte) (m : Memory) : Memory :=
  (lanes n ch).foldl (fun m ic => m.writeWord (inAddr p ic.2 ic.1) (laneDecode (2 * ch) bytes ic.1 ic.2)) m

/-! ### Encode -/

/-- The integer `s` of `Enc16` (R130): NaN by the parameter (R133), saturate at -1.0 and at 1.0, else scale by 32768,
truncate toward zero and clamp. -/
def encSample (w : Word) : Int :=
  if isNaN w then (Config.encNaN w).toInt
  else if f32Units w ≤ -f32One then -32768
  else if f32One ≤ f32Units w then 32767
  else clamp (-32768) 32767 ((f32Units w * 32768).tdiv f32One)

/-- `Enc16(w)`: the bytes `(lo, hi)`, low byte first (R130). -/
def enc16 (w : Word) : Byte × Byte :=
  ((u16 (encSample w)).extractLsb' 0 8, (u16 (encSample w)).extractLsb' 8 8)

/-- The word ENCODE reads for lane (`i`, `c`): `OUTBLK[c][i]`, or a free value, one of its own for each lane, where
nothing was written since reset (R48, U2; notes/assumptions/3.md). -/
def State.outSample (s : State) (i c : Nat) : Word :=
  (s.mem.readWord (outAddr s.params c i)).getD (Config.freeWord (s.draws + (i * s.ch.toNat + c)))

/-- `EncFrames(m)` (R135): frame 0 first, channel 0 first inside a frame, low byte first inside a sample. -/
def State.encFrames (s : State) (m : Nat) : List Byte :=
  (lanes m s.ch.toNat).flatMap fun ic => [(enc16 (s.outSample ic.1 ic.2)).1, (enc16 (s.outSample ic.1 ic.2)).2]

end Sys2Proof.Machine
end

