-- ==== Sys2Proof/Machine/Input.lean ====
section
/-! DEFINITION. The input command PULL (spec/41_decode_pull.md). -/

namespace Sys2Proof.Machine

/-- `n = T div BPF` with `T = |ILQ| + |B|`: the whole frames a pull answered with `B` completes (R115, C2). -/
def State.pullFrames (s : State) (B : List Byte) : Nat := (s.ilq.length + B.length) / s.bpf

/-- `SCRATCH` once the leftover and then the answer stand at its front (R75, R115). -/
def State.pullScratch (s : State) (B : List Byte) : List Byte :=
  s.ilq ++ B ++ s.scratch.drop (s.ilq.length + B.length)

/-- What PULL does once the source has answered `B` (R115): decode the whole frames, stage the trailing
`T mod BPF` bytes, record the counts, and pulse `ev_src` when `B` is not empty (R116). -/
def State.pullWith (s : State) (B : List Byte) : State :=
  { s with
    scratch := s.pullScratch B
    mem := decodeFrames s.params s.ch.toNat (s.pullFrames B) (s.pullScratch B) s.mem
    ilq := ((s.pullScratch B).drop (s.pullFrames B * s.bpf)).take ((s.ilq.length + B.length) % s.bpf)
    nin := s.pullFrames B
    klast := BitVec.ofNat 24 B.length
    events := s.events ++ (if 0 < B.length then [.src] else []) }

/-- `PULL req` (R115): READY only; OPERAND before any effect when `req + |ILQ| > SCAP` (notes/assumptions/13.md); then
one source request. A source that never answers leaves the machine stuck (U6). -/
def execPull (req : Imm24) (s : State) : Host.Outcome State Fault Refusal :=
  readyOnly (.pull req) s <|
    if s.scap < immValue req + s.ilq.length then .next (s.takeFault .operand (encode (.pull req)))
    else
      match s.srcAnswer (immValue req) with
      | some B => .next ((s.srcAdvance (immValue req)).pullWith B)
      | none => .fault .sourceNeverAnswers

end Sys2Proof.Machine
end

