-- ==== Sys2Proof/Machine/Output.lean ====
section
/-! DEFINITION. The output commands RDREQ, ENCODE and PAD (spec/42_encode_output.md). -/

namespace Sys2Proof.Machine

/-- `RDREQ count` (R140): READY only; ORDER when a read request is open; the oldest staged bytes are delivered first. -/
def execRdreq (count : Imm24) (s : State) : Host.Outcome State Fault Refusal :=
  readyOnly (.rdreq count) s <|
    if s.remain ≠ 0 then .next (s.takeFault .order (encode (.rdreq count)))
    else
      let d := min s.olq.length (immValue count)
      .next (s.deliver (s.olq.take d) (s.olq.drop d) (immValue count - d))

/-- `ENCODE m` (R145): READY only; OPERAND when `m > BLK`, then ORDER when bytes are staged; as many bytes as the open
request wants are delivered, the rest is staged. The free values of the lanes read are used up
(notes/assumptions/3.md). -/
def execEncode (m : Imm24) (s : State) : Host.Outcome State Fault Refusal :=
  readyOnly (.encode m) s <|
    if s.params.blk < immValue m then .next (s.takeFault .operand (encode (.encode m)))
    else if s.olq.length ≠ 0 then .next (s.takeFault .order (encode (.encode m)))
    else
      let E := s.encFrames (immValue m)
      let e := min s.remain.toNat E.length
      .next ((s.deliver (E.take e) (E.drop e) (s.remain.toNat - e)).useDraws (immValue m * s.ch.toNat))

/-- `PAD` (R150): READY only; the open request is completed with zero bytes, EOS set, `ev_eos` pulsed every time
(R151). -/
def execPad (s : State) : Host.Outcome State Fault Refusal :=
  readyOnly .pad s <|
    .next ((s.dstWrite (List.replicate s.remain.toNat 0)).closeRequest.pulse .eos)

end Sys2Proof.Machine
end

