-- ==== Sys2Proof/Machine/Dispatch.lean ====
section
/-! DEFINITION. One arm per command. -/

namespace Sys2Proof.Machine

def exec (i : Instr) (s : State) : Host.Outcome State Fault Refusal :=
  match i with
  | .init => Sys2Proof.Machine.execInit s
  | .reset => Sys2Proof.Machine.execReset s
  | .pull req => Sys2Proof.Machine.execPull req s
  | .rdreq count => Sys2Proof.Machine.execRdreq count s
  | .encode m => Sys2Proof.Machine.execEncode m s
  | .pad => Sys2Proof.Machine.execPad s

end Sys2Proof.Machine
end

