-- ==== Sys2Proof/Machine/Flags.lean ====
section
/-! DEFINITION. The flags of `STATUS`, the error level, and what a read of each register returns (R24 to R38). -/

namespace Sys2Proof.Machine

/-- `ILQNE`: 1 when `|ILQ| > 0` (R26). -/
def State.ilqne (s : State) : Bool := s.ilq.length != 0

/-- `OLQNE`: 1 when `|OLQ| > 0` (R26). -/
def State.olqne (s : State) : Bool := s.olq.length != 0

/-- `RDACT`: 1 when `REMAIN != 0` (R26). -/
def State.rdact (s : State) : Bool := s.remain != 0

/-- `irq_err`, a level equal to `MODE = FAILED` (R202). -/
def State.irqErr (s : State) : Bool := s.mode == .failed

/-- The word `STATUS` reads as: RDACT, OLQNE, ILQNE, EOS, MODE from bit 5 down, bits 31:6 zero (R26). -/
def State.statusWord (s : State) : Word :=
  0#26 ++ BitVec.ofBool s.rdact ++ BitVec.ofBool s.olqne ++ BitVec.ofBool s.ilqne ++ BitVec.ofBool s.eos ++ s.mode.code

/-- The word a read of a register returns (R24 to R38, fields zero-extended, R16(e)); `CMD` is write-only (R25). -/
def regRead (r : Reg) (s : State) : Option Word :=
  match r with
  | .cmd => none
  | .status => some s.statusWord
  | .errcode => some (s.errcode.code.setWidth 32)
  | .errcmd => some s.errcmd
  | .fmtRate => some s.fmtRate
  | .fmtCh => some s.fmtCh
  | .fmtBits => some s.fmtBits
  | .bpf => some (BitVec.ofNat 32 s.bpf)
  | .blkcap => some (BitVec.ofNat 32 s.params.blk)
  | .chcap => some (BitVec.ofNat 32 s.params.chmax)
  | .remain => some (s.remain.setWidth 32)
  | .fwant => some (BitVec.ofNat 32 s.fwant)
  | .nin => some (BitVec.ofNat 32 s.nin)
  | .klast => some (s.klast.setWidth 32)
  | .ilqlvl => some (BitVec.ofNat 32 s.ilq.length)
  | .olqlvl => some (BitVec.ofNat 32 s.olq.length)

end Sys2Proof.Machine
end

