-- ==== Sys2Proof/Machine/Bus.lean ====
section
/-! DEFINITION. The bus slave: command words (R84), `Read32`, `Write32`, the error response, and what the block does
with each event that makes it step (spec/43_bus_access.md, R203, R220). -/

namespace Sys2Proof.Machine

/-- A word written to CMD (R84). A legal command goes to `exec`, which makes the mode check; an illegal word raises
ILLEGAL, or is discarded in FAILED. -/
def command (w : Word) (s : State) : Host.Outcome State Fault Refusal :=
  match decode w with
  | .cmd i => exec i s
  | .illegal _ =>
    match s.mode with
    | .failed => .next s
    | .unconf => .next (s.takeFault .illegal w)
    | .ready => .next (s.takeFault .illegal w)

/-- The response `r` of a transaction whose effect is `o`, once that effect is complete. -/
def thenRespond (r : BusResp) (o : Host.Outcome State Fault Refusal) : Host.Outcome State Fault Refusal :=
  match o with
  | .next t => .next (t.respond r)
  | .fault f => .fault f
  | .refused f => .refused f

/-- A read of a window word: its value, or a free value, new at each read, when nothing was written since reset
(R160, R48, U2; notes/assumptions/3.md). -/
def windowRead (a : Nat) (s : State) : State :=
  match s.mem.readWord a with
  | some w => s.respond (.data w)
  | none => { s.respond (.data (Config.freeWord s.draws)) with draws := s.draws + 1 }

/-- `Read32(addr)` (R160); any other width is a bus error (R68, R162). -/
def busRead (width : Nat) (addr : Word) (s : State) : State :=
  if width ≠ 32 then s.respond .busError
  else
    match target s.params addr with
    | .reg r =>
      match regRead r s with
      | some w => s.respond (.data w)
      | none => s.respond .busError
    | .inblk c i => windowRead (inAddr s.params c i) s
    | .outblk c i => windowRead (outAddr s.params c i) s
    | .absent => s.respond .busError

/-- A write to a format register: stored in UNCONF, a bus error in the other modes (R29 to R31, R161). `stored` is the
state with the register written. -/
def formatWrite (stored s : State) : State :=
  match s.mode with
  | .unconf => stored.respond .ok
  | .ready => s.respond .busError
  | .failed => s.respond .busError

/-- A write to a register (R24, R161): CMD executes the word, the format registers store, the others are read-only. -/
def regWrite (r : Reg) (data : Word) (s : State) : Host.Outcome State Fault Refusal :=
  match r with
  | .cmd => thenRespond .ok (command data s)
  | .fmtRate => .next (formatWrite { s with fmtRate := data } s)
  | .fmtCh => .next (formatWrite { s with fmtCh := data } s)
  | .fmtBits => .next (formatWrite { s with fmtBits := data } s)
  | .status => .next (s.respond .busError)
  | .errcode => .next (s.respond .busError)
  | .errcmd => .next (s.respond .busError)
  | .bpf => .next (s.respond .busError)
  | .blkcap => .next (s.respond .busError)
  | .chcap => .next (s.respond .busError)
  | .remain => .next (s.respond .busError)
  | .fwant => .next (s.respond .busError)
  | .nin => .next (s.respond .busError)
  | .klast => .next (s.respond .busError)
  | .ilqlvl => .next (s.respond .busError)
  | .olqlvl => .next (s.respond .busError)

/-- `Write32(addr, data)` (R161); any other width is a bus error (R68, R162). -/
def busWrite (width : Nat) (addr data : Word) (s : State) : Host.Outcome State Fault Refusal :=
  if width ≠ 32 then .next (s.respond .busError)
  else
    match target s.params addr with
    | .reg r => regWrite r data s
    | .outblk c i => .next ({ s with mem := s.mem.writeWord (outAddr s.params c i) data }.respond .ok)
    | .inblk _ _ => .next (s.respond .busError)
    | .absent => .next (s.respond .busError)

/-- One bus transaction (R69). -/
def transact (t : BusTxn) (s : State) : Host.Outcome State Fault Refusal :=
  match t with
  | .read width addr => .next (busRead width addr s)
  | .write width addr data => busWrite width addr data s

/-- One event: a transaction is performed; `rst` resets, and a transaction presented with it is not performed and gets
no response (R195, R220; notes/assumptions/7.md). -/
def serve (e : HostEvent) (s : State) : Host.Outcome State Fault Refusal :=
  match e with
  | .bus t => transact t s
  | .rst _ => .next s.resetBlock

/-- The events in the order of their arrival (R71): the first one is served; with none the block is idle and keeps all
state (R203, R210). -/
def stepBlock (s : State) : Host.Outcome State Fault Refusal :=
  match s.pending with
  | [] => .next s
  | e :: rest => serve e { s with pending := rest }

end Sys2Proof.Machine
end

