-- ==== Sys2Proof/Machine/Step.lean ====
section
/-! DEFINITION. One step of the machine, and how an instruction word is put where the next step takes it. -/

namespace Sys2Proof.Machine

/-- One step: the block serves the next event (R13). -/
def step (s : State) : Host.Outcome State Fault Refusal := stepBlock s

/-- The block fetches nothing (R21, R74): a command runs when its word is written to CMD. This puts that write first
among the pending events; bits above `nbits` are 0 (notes/assumptions/6.md). -/
def State.withFetchWord (s : State) (nbits w : Nat) : State :=
  { s with pending := .bus (.write 32 Reg.cmd.addr (BitVec.ofNat 32 (w % 2 ^ nbits))) :: s.pending }

end Sys2Proof.Machine
end

