-- ==== Sys2Proof/Machine/HostMacros.lean ====
section
/-! DEFINITION. The host sequences of spec/44_host_macros.md as bus transactions: the syntax of R87, CONSTRUCT (R170)
and READ (R171) with any stretcher that keeps R176. They are no part of the block (R5(c)); notes/assumptions/16.md. -/

namespace Sys2Proof.Machine

/-! ### The syntax of R87 -/

/-- `WR NAME, value`. -/
def wr (r : Reg) (v : Word) : BusTxn := .write 32 r.addr v

/-- `RD NAME`. -/
def rd (r : Reg) : BusTxn := .read 32 r.addr

/-- A command mnemonic: `WR CMD, <word>`. -/
def cmd (i : Instr) : BusTxn := wr .cmd (encode i)

/-- `WRF OUTBLK[c][i], w`. -/
def wrf (p : Params) (c i : Nat) (w : Word) : BusTxn := .write 32 (BitVec.ofNat 32 (outAddr p c i)) w

/-- `RDF INBLK[c][i]`. -/
def rdfIn (p : Params) (c i : Nat) : BusTxn := .read 32 (BitVec.ofNat 32 (inAddr p c i))

/-- `RDF OUTBLK[c][i]`. -/
def rdfOut (p : Params) (c i : Nat) : BusTxn := .read 32 (BitVec.ofNat 32 (outAddr p c i))

/-! ### Issuing transactions -/

/-- Transactions issued one after another, nothing arriving between them. -/
def issueAll : List BusTxn → State → Host.Outcome State Fault Refusal
  | [], s => .next s
  | t :: ts, s =>
    match transact t s with
    | .next u => issueAll ts u
    | .fault f => .fault f
    | .refused f => .refused f

/-- The words the reads answered since `s`, oldest first. -/
def dataSince (s t : State) : List Word :=
  (t.resp.drop s.resp.length).filterMap fun r =>
    match r with
    | .data w => some w
    | .ok => none
    | .busError => none

/-! ### CONSTRUCT -/

/-- `CONSTRUCT rate, ch, bits` (R170): three writes, INIT, and the read of STATUS. -/
def construct (rate ch bits : Word) : List BusTxn :=
  [wr .fmtRate rate, wr .fmtCh ch, wr .fmtBits bits, cmd .init, rd .status]

/-! ### READ -/

/-- A stretcher as the block sees it (R176), over a state `σ` of its own: what `retrieve` answers (how many frames, and
the word of frame `i`, channel `c`) and what `process` does with frames. -/
structure Stretcher (σ : Type) where
  /-- `retrieve(OUTBLK, maxFrames)`: frame count, the word of frame `i` and channel `c`, the stretcher after. -/
  retrieve : σ → Nat → Nat × (Nat → Nat → Word) × σ
  /-- `process(INBLK, n, false)`: the frames read, each a list of one word for each channel. -/
  process : σ → List (List Word) → σ

/-- The identity stretcher of R177: a first-in first-out list of frames. -/
def identityStretcher : Stretcher (List (List Word)) where
  retrieve := fun q maxFrames =>
    (min maxFrames q.length, fun i c => (q.getD i []).getD c 0, q.drop (min maxFrames q.length))
  process := fun q frames => q ++ frames

/-- How a host sequence stands. -/
inductive HostRun (σ : Type) where
  /-- The macro returned; the stretcher and the block after it. -/
  | returned (x : σ) (s : State)
  /-- The iterations allowed are used up (R175: nothing bounds the loop). -/
  | running (x : σ) (s : State)
  /-- The machine stopped: the source never answers. -/
  | stopped (f : Fault)
  /-- A command had no meaning. -/
  | refused (f : Refusal)

/-- Go on from the state an outcome answers. -/
def HostRun.after {σ : Type} (o : Host.Outcome State Fault Refusal) (k : State → HostRun σ) : HostRun σ :=
  match o with
  | .next t => k t
  | .fault f => .stopped f
  | .refused f => .refused f

/-- Issue transactions and go on with the words they read. -/
def HostRun.ask {σ : Type} (ts : List BusTxn) (s : State) (k : List Word → State → HostRun σ) : HostRun σ :=
  HostRun.after (issueAll ts s) fun t => k (dataSince s t) t

/-- The writes by which `retrieve` places `m` frames in `OUTBLK` (R163, R176). Their order, frame by frame and channel 0
first, is a DESIGN CHOICE: R163 says only "a series of writes" (notes/assumptions/16.md). -/
def retrieveWrites (p : Params) (ch m : Nat) (f : Nat → Nat → Word) : List BusTxn :=
  (lanes m ch).map fun ic => wrf p ic.2 ic.1 (f ic.1 ic.2)

/-- The reads by which `process` takes `n` frames from `INBLK` (R163, R176). Their order, frame by frame and channel 0
first, is a DESIGN CHOICE: R163 says only "a series of reads" (notes/assumptions/16.md). -/
def processReads (p : Params) (ch n : Nat) : List BusTxn :=
  (lanes n ch).map fun ic => rdfIn p ic.2 ic.1

/-- The words of `processReads` as frames. -/
def framesOfReads (ch n : Nat) (ws : List Word) : List (List Word) :=
  (List.range n).map fun i => (ws.drop (i * ch)).take ch

/-- The byte count of a pull by the reference host (R172): all that fits behind the leftover, and at most what the
24-bit immediate can hold (R82; notes/assumptions/16.md). -/
def pullRequest (blk bpf ilqlvl : Word) : Nat := min (blk.toNat * bpf.toNat - ilqlvl.toNat) (2 ^ 24 - 1)

/-- The loop of `READ` (R171), at most the given number of iterations. `ApplyPendingTempo` touches nothing in the block
(R173). `retrieve` answers at most the frames asked for (R176). -/
def readLoop {σ : Type} (M : Stretcher σ) : Nat → σ → State → HostRun σ
  | 0, x, s => .running x s
  | fuel + 1, x, s =>
    HostRun.ask [rd .remain] s fun rem s1 =>
      if rem = [0] then .returned x s1
      else
        HostRun.ask [rd .fwant] s1 fun fw s2 =>
          let fwant := (fw.headD 0).toNat
          let m := min (M.retrieve x fwant).1 fwant
          let x1 := (M.retrieve x fwant).2.2
          HostRun.ask (retrieveWrites s2.params s2.ch.toNat m (M.retrieve x fwant).2.1) s2 fun _ s3 =>
            if m = 0 then
              HostRun.ask [rd .blkcap, rd .bpf, rd .ilqlvl] s3 fun ws s4 =>
                let req := pullRequest (ws.getD 0 0) (ws.getD 1 0) (ws.getD 2 0)
                HostRun.ask [cmd (.pull (BitVec.ofNat 24 req)), rd .klast] s4 fun k s5 =>
                  if k = [0] then
                    HostRun.ask [cmd .pad] s5 fun _ s6 => .returned x1 s6
                  else
                    HostRun.ask [rd .nin] s5 fun n s6 =>
                      let nin := (n.headD 0).toNat
                      HostRun.ask (processReads s6.params s6.ch.toNat nin) s6 fun ws s7 =>
                        readLoop M fuel (M.process x1 (framesOfReads s7.ch.toNat nin ws)) s7
            else
              HostRun.ask [cmd (.encode (BitVec.ofNat 24 m))] s3 fun _ s4 => readLoop M fuel x1 s4

/-- `READ count` (R171): RDREQ, then the loop. -/
def readMacro {σ : Type} (M : Stretcher σ) (fuel : Nat) (count : Imm24) (x : σ) (s : State) : HostRun σ :=
  HostRun.ask [cmd (.rdreq count)] s fun _ t => readLoop M fuel x t

end Sys2Proof.Machine
end

