-- ==== Sys2Proof/Safety.lean ====
section
/-! DEFINITION. What a good state and a clean run are, in the terms the statements use (R45, R234). -/

namespace Sys2Proof.Machine

/-- The invariants R45 states, (a) to (e). -/
structure State.StagingInv (s : State) : Prop where
  /-- R45(a): `|ILQ| <= BPF - 1` when `CH > 0`. -/
  ilq_le : 0 < s.ch.toNat → s.ilq.length ≤ s.bpf - 1
  /-- R45(a): `|ILQ| = 0` when `CH = 0`. -/
  ilq_empty : s.ch.toNat = 0 → s.ilq.length = 0
  /-- R45(b): `|OLQ| <= SCAP`. -/
  olq_le : s.olq.length ≤ s.scap
  /-- R45(c): `|OLQ| > 0` implies `REMAIN = 0`. -/
  olq_remain : 0 < s.olq.length → s.remain = 0
  /-- R45(d): `NIN <= BLK`. -/
  nin_le : s.nin ≤ s.params.blk
  /-- R45(d): `KLAST <= SCAP`. -/
  klast_le : s.klast.toNat ≤ s.scap
  /-- R45(e): what holds in UNCONF. -/
  unconf : s.mode = .unconf →
    s.ilq = [] ∧ s.olq = [] ∧ s.remain = 0 ∧ s.nin = 0 ∧ s.klast = 0 ∧ s.eos = false ∧ s.ch = 0

/-- Mode, format and error registers agree (R23, R27, R28, R30, R31). -/
structure State.ModeInv (s : State) : Prop where
  /-- In READY the configured channel count is latched, `FMT_CH = CH` and `FMT_BITS = 16` (R30, R31). -/
  ready : s.mode = .ready → 0 < s.ch.toNat ∧ s.fmtCh.toNat = s.ch.toNat ∧ s.fmtBits.toNat = 16
  /-- `CH <= CHMAX` (R7). -/
  ch_le : s.ch.toNat ≤ s.params.chmax
  /-- `ERRCODE` and `ERRCMD` are 0 when `MODE != FAILED` (R27, R28). -/
  no_error : s.mode ≠ .failed → s.errcode = .none ∧ s.errcmd = 0
  /-- `ERRCODE` names a cause when `MODE = FAILED` (R27). -/
  error : s.mode = .failed → s.errcode ≠ .none

/-- A byte address inside one of the two float windows (R61). -/
def InWindow (p : Params) (a : Nat) : Prop :=
  (0x10000000 ≤ a ∧ a < 0x10000000 + windowBytes p) ∨ (0x20000000 ≤ a ∧ a < 0x20000000 + windowBytes p)

/-- The memory is canonical, holds nothing outside the windows, and SCRATCH is within its capacity (R41, R61). -/
structure State.MemInv (s : State) : Prop where
  /-- Addresses strictly rising. -/
  wf : s.mem.wf
  /-- Every cell lies in a window. -/
  mapped : ∀ x ∈ s.mem, InWindow s.params x.1
  /-- `SCRATCH` holds at most `SCAP` bytes. -/
  scratch_le : s.scratch.length ≤ s.scap

/-- The machine's invariant: every step keeps it and reset has it. -/
structure State.Inv (s : State) : Prop where
  /-- R45. -/
  staging : s.StagingInv
  /-- Mode, format, error registers. -/
  modes : s.ModeInv
  /-- The memories. -/
  memory : s.MemInv

/-- The states reachable from reset: any build, any arrivals on the bus, any source (R13, R66). -/
inductive Reachable : State → Prop where
  /-- Just after reset. -/
  | reset (p : Params) : Reachable (State.resetWith p)
  /-- Something arrives, or the source's next answers change: the block itself does nothing. -/
  | arrive (s : State) (events : List HostEvent) (answers : List SrcAnswer) :
      Reachable s → Reachable { s with pending := events, source := answers }
  /-- The block takes a step. -/
  | step (s t : State) : Reachable s → step s = .next t → Reachable t

/-- A run is clean when it ends with `MODE = READY` and `REMAIN = 0` (R234). -/
def State.clean (s : State) : Prop := s.mode = .ready ∧ s.remain = 0

/-- Everything produced on the output side: delivered, then staged (R152). -/
def State.outStream (s : State) : List Byte := s.dst ++ s.olq

/-- The event is a reset: `rst`, or the RESET word written to CMD (R220). -/
def HostEvent.isReset : HostEvent → Bool
  | .rst _ => true
  | .bus (.read _ _) => false
  | .bus (.write width addr data) => width == 32 && addr == Reg.cmd.addr && data == encode .reset

/-- The causes of a bus error, (a) to (f), exactly as R162 lists them, for a transaction `t` in state `s`. -/
def BusErrorCause (s : State) (t : BusTxn) : Prop :=
  let width := match t with | .read w _ => w | .write w _ _ => w
  let addr : Word := match t with | .read _ a => a | .write _ a _ => a
  let isWrite : Bool := match t with | .read _ _ => false | .write _ _ _ => true
  let off := offsetOf addr
  -- (a) address not a multiple of 4
  addr.toNat % 4 ≠ 0
  -- (b) access width other than 32 bits
  ∨ width ≠ 32
  -- (c) unmapped address
  ∨ 3 ≤ regionOf addr ∨ (regionOf addr = 0 ∧ 0x40 ≤ off)
  ∨ ((regionOf addr = 1 ∨ regionOf addr = 2) ∧ 4 * s.params.chmax * s.params.blk ≤ off)
  -- (d) read of write-only CMD
  ∨ (isWrite = false ∧ regionOf addr = 0 ∧ off = 0)
  -- (e) write to a read-only register or to the INBLK window
  ∨ (isWrite = true ∧ regionOf addr = 0 ∧
      off ∈ [0x04, 0x08, 0x0C, 0x1C, 0x20, 0x24, 0x28, 0x2C, 0x30, 0x34, 0x38, 0x3C])
  ∨ (isWrite = true ∧ regionOf addr = 1)
  -- (f) write to a format register outside UNCONF
  ∨ (isWrite = true ∧ regionOf addr = 0 ∧ off ∈ [0x10, 0x14, 0x18] ∧ s.mode ≠ .unconf)

/-- The frames the last PULL left in `INBLK`, frame by frame (R113): each word as the memory holds it. -/
def State.pulledFrames (s : State) : List (List (Option Word)) :=
  (List.range s.nin).map fun i =>
    (List.range s.ch.toNat).map fun c => s.mem.readWord (inAddr s.params c i)

/-- The bytes a command produces on the output side when it executes in `s` (R152): the encoded frames of an ENCODE, the
zero bytes of a PAD. -/
def produced (i : Instr) (s : State) : List Byte :=
  match i with
  | .encode m => s.encFrames (immValue m)
  | .pad => List.replicate s.remain.toNat 0
  | .init => []
  | .reset => []
  | .pull _ => []
  | .rdreq _ => []

/-- The command an event executes, if any, `t` being the state after it: the one whose word it writes to CMD, when the
block is READY after it. A command that faults or is discarded leaves the block FAILED and does not count (R193, R196),
and a RESET is no command of a series. -/
def executed (e : HostEvent) (t : State) : Option Instr :=
  match e with
  | .rst _ => none
  | .bus (.read _ _) => none
  | .bus (.write width addr data) =>
    if width = 32 ∧ addr = Reg.cmd.addr ∧ t.mode = .ready then
      match decode data with
      | .cmd i => some i
      | .illegal _ => none
    else none

/-- The bytes an event produces on the output side, from `s` to `t` (R152): those of the command it executes. -/
def producedBy (e : HostEvent) (s t : State) : List Byte :=
  match executed e t with
  | some i => produced i s
  | none => []

/-- What one PULL did on the input side (R118). -/
structure Pulled where
  /-- The frames it wrote to `INBLK`. -/
  frames : List (List (Option Word))
  /-- The source's answer to it. -/
  answer : List Byte
  deriving DecidableEq, Repr

/-- The pulls of a command that executes from `s` to `t`: one for a PULL, none for another. A PULL that executes has an
answer, so the empty list is never taken for one. -/
def pulls (i : Instr) (s t : State) : List Pulled :=
  match i with
  | .pull req => [⟨t.pulledFrames, (s.srcAnswer (immValue req)).getD []⟩]
  | .init => []
  | .reset => []
  | .rdreq _ => []
  | .encode _ => []
  | .pad => []

/-- The pulls of an event, from `s` to `t`. -/
def pulledBy (e : HostEvent) (s t : State) : List Pulled :=
  match executed e t with
  | some i => pulls i s t
  | none => []

/-- `n` steps, each serving an event that is no reset, and what `collect` takes from each, in order; nothing when the
events run out, one is a reset, or a step does not complete. -/
def servedSeries {α : Type} (collect : HostEvent → State → State → List α) : Nat → State → Option (List α × State)
  | 0, s => some ([], s)
  | n + 1, s =>
    match s.pending with
    | [] => none
    | e :: _ =>
      if e.isReset then none
      else
        match step s with
        | .next t =>
          match servedSeries collect n t with
          | some (L, u) => some (collect e s t ++ L, u)
          | none => none
        | .fault _ => none
        | .refused _ => none

/-- The first `|A| div BPF` frames of a byte sequence decoded (R113, R118). -/
def decodedFrames (ch : Nat) (A : List Byte) : List (List (Option Word)) :=
  (List.range (A.length / (2 * ch))).map fun i =>
    (List.range ch).map fun c => some (laneDecode (2 * ch) A i c)

end Sys2Proof.Machine
end

