-- ==== Sys2Proof/Certificates/Slice0/Obligations.lean ====
section
/-! DEFINITION. The statements for the provers, from the numbered rules of spec/. -/

open Sys2Proof Sys2Proof.Machine

/-! ### Words: encoding and decoding -/

/-- R81 to R83: the decoder and the encoder are inverse to each other, every operand at every value. -/
def Obligations.DecodeEncodeInverse : Prop :=
  (∀ i : Instr, decode (encode i) = .cmd i) ∧ ∀ (w : Word) (i : Instr), decode w = .cmd i → encode i = w

/-- R83: the six rows with their match and mask values, and no two rows overlap. -/
def Obligations.MatchAndMaskSpellTheSixCommands : Prop :=
  (∀ w : Word,
    (w &&& 0xFFFFFFFF = 0x01000000 ↔ decode w = .cmd .init) ∧
    (w &&& 0xFFFFFFFF = 0x02000000 ↔ decode w = .cmd .reset) ∧
    (w &&& 0xFF000000 = 0x10000000 ↔ decode w = .cmd (.pull (w.extractLsb' 0 24))) ∧
    (w &&& 0xFF000000 = 0x20000000 ↔ decode w = .cmd (.rdreq (w.extractLsb' 0 24))) ∧
    (w &&& 0xFF000000 = 0x21000000 ↔ decode w = .cmd (.encode (w.extractLsb' 0 24))) ∧
    (w &&& 0xFFFFFFFF = 0x22000000 ↔ decode w = .cmd .pad)) ∧
  (∀ w : Word, ((∃ i, decode w = .cmd i) ↔ ∃ r ∈ rows, r.spells w = true)) ∧
  ∀ (w : Word), ∀ r ∈ rows, ∀ r' ∈ rows, r.spells w = true → r'.spells w = true → r = r'

/-- Words written out from R83 decode to the commands they stand for. -/
def Obligations.WrittenWordsDecode : Prop :=
  decode 0x01000000 = .cmd .init ∧ decode 0x02000000 = .cmd .reset ∧ decode 0x1000000D = .cmd (.pull 13) ∧
  decode 0x2000000C = .cmd (.rdreq 12) ∧ decode 0x21000003 = .cmd (.encode 3) ∧ decode 0x22000000 = .cmd .pad ∧
  (∃ why, decode 0x22000001 = .illegal why) ∧ ∃ why, decode 0x00000000 = .illegal why

/-- R85: every word no row spells raises ILLEGAL when written to CMD outside FAILED; that covers every other opcode, and
format Z with a nonzero field. -/
def Obligations.IllegalWordsRaiseIllegal : Prop :=
  (∀ (s : State) (w : Word) (rest : List HostEvent),
    s.pending = .bus (.write 32 0x00000000 w) :: rest → s.mode ≠ .failed → (∀ r ∈ rows, w &&& r.mask ≠ r.pattern) →
    step s = .next { s with
      pending := rest, errcode := .illegal, errcmd := w, mode := .failed, resp := s.resp ++ [.ok] }) ∧
  (∀ w : Word, w.extractLsb' 24 8 ∉ [0x01#8, 0x02#8, 0x10#8, 0x20#8, 0x21#8, 0x22#8] →
    ∀ r ∈ rows, w &&& r.mask ≠ r.pattern) ∧
  ∀ w : Word, w.extractLsb' 24 8 ∈ [0x01#8, 0x02#8, 0x22#8] → w.extractLsb' 0 24 ≠ 0#24 →
    ∀ r ∈ rows, w &&& r.mask ≠ r.pattern

/-! ### The step -/

/-- R84, R161: a step whose first event is the write of a command's word to CMD runs that command on the state with the
event taken off, and then gives the response `ok`. -/
def Obligations.StepRunsTheDecodedCommand : Prop :=
  ∀ (s : State) (w : Word) (i : Instr) (rest : List HostEvent),
    s.pending = .bus (.write 32 0x00000000 w) :: rest → decode w = .cmd i →
    step s = thenRespond .ok (exec i { s with pending := rest })

/-- R203, R210: with no transaction and no reset the block keeps all state. -/
def Obligations.IdleBlockKeepsAllState : Prop := ∀ s : State, s.pending = [] → step s = .next s

/-- R220, R195: `rst`, alone or with a transaction, has exactly the effect of the RESET command, and the transaction is
not performed. -/
def Obligations.RstHasTheEffectOfReset : Prop :=
  ∀ (s : State) (together : Option BusTxn) (rest : List HostEvent), s.pending = .rst together :: rest →
    step s = exec .reset { s with pending := rest } ∧ ∃ t, step s = .next t ∧ t.resp = s.resp ∧ t.mode = .unconf

/-- R33, R6: no step changes the parameters of the build. -/
def Obligations.ParametersAreConstants : Prop := ∀ s t : State, step s = .next t → t.params = s.params

/-- R47, R67, R222: no step takes back a byte delivered, a pulse or a response (the log of responses is the model's,
notes/assumptions/9.md). -/
def Obligations.OutputsOnlyGrow : Prop :=
  ∀ s t : State, step s = .next t → s.dst <+: t.dst ∧ s.events <+: t.events ∧ s.resp <+: t.resp

/-! ### Reset and configuration -/

/-- R48, R101, R222: what RESET leaves, in every mode. -/
def Obligations.ResetLeavesTheResetState : Prop :=
  ∀ s : State, ∃ t, exec .reset s = .next t ∧
    t.mode = .unconf ∧ t.ch = 0 ∧ t.errcode = .none ∧ t.errcmd = 0 ∧ t.fmtRate = 0 ∧ t.fmtCh = 0 ∧ t.fmtBits = 0 ∧
    t.remain = 0 ∧ t.nin = 0 ∧ t.klast = 0 ∧ t.eos = false ∧ t.ilq = [] ∧ t.olq = [] ∧ t.irqErr = false ∧
    t.scratch = [] ∧ (∀ a, t.mem.readByte a = none) ∧
    regRead .blkcap t = some (BitVec.ofNat 32 s.params.blk) ∧ regRead .chcap t = some (BitVec.ofNat 32 s.params.chmax) ∧
    t.params = s.params ∧ t.dst = s.dst ∧ t.events = s.events ∧ t.resp = s.resp ∧ t.pending = s.pending ∧
    t.source = s.source ∧ t.draws = s.draws

/-- R100: INIT in every mode, its checks in their order, what it latches, and that the format is then read-only. -/
def Obligations.InitLatchesTheFormatOrFaults : Prop :=
  ∀ s : State,
    (s.mode = .ready →
      exec .init s = .next { s with errcode := .badMode, errcmd := 0x01000000, mode := .failed }) ∧
    (s.mode = .failed → exec .init s = .next s) ∧
    (s.mode = .unconf → s.fmtBits.toNat ≠ 16 →
      exec .init s = .next { s with errcode := .cfgBits, errcmd := 0x01000000, mode := .failed }) ∧
    (s.mode = .unconf → s.fmtBits.toNat = 16 → (s.fmtCh.toNat < 1 ∨ s.params.chmax < s.fmtCh.toNat) →
      exec .init s = .next { s with errcode := .cfgCh, errcmd := 0x01000000, mode := .failed }) ∧
    (s.mode = .unconf → s.fmtBits.toNat = 16 → 1 ≤ s.fmtCh.toNat → s.fmtCh.toNat ≤ s.params.chmax →
      ∃ t, exec .init s = .next t ∧ t = { s with ch := t.ch, mode := .ready } ∧
        t.ch = s.fmtCh.extractLsb' 0 8 ∧ t.ch.toNat = s.fmtCh.toNat ∧
        regRead .bpf t = some (BitVec.ofNat 32 (2 * s.fmtCh.toNat)) ∧
        ∀ (r : Reg) (v : Word), r ∈ [.fmtRate, .fmtCh, .fmtBits] → regWrite r v t = .next (t.respond .busError))

/-- R170: CONSTRUCT from UNCONF ends in READY exactly when the format conforms, else in FAILED with cause 1 or 2. -/
def Obligations.ConstructSucceedsExactlyOnConformingFormats : Prop :=
  ∀ (s : State) (rate ch bits : Word), s.mode = .unconf →
    ∃ t, issueAll (construct rate ch bits) s = .next t ∧ dataSince s t = [t.statusWord] ∧
      (bits = 16 → 1 ≤ ch.toNat → ch.toNat ≤ s.params.chmax → t.mode = .ready ∧ t.ch.toNat = ch.toNat ∧ t.fmtRate = rate) ∧
      (bits ≠ 16 → t.mode = .failed ∧ t.errcode.code = 1) ∧
      (bits = 16 → (ch.toNat < 1 ∨ s.params.chmax < ch.toNat) → t.mode = .failed ∧ t.errcode.code = 2)

/-! ### The stream commands -/

/-- R115, R113, R116: PULL in every mode; with the source's answer `B`, the frames decoded, the bytes staged, the
counts, the pulse, and everything else unchanged. -/
def Obligations.PullDecodesWholeFramesAndStagesTheRest : Prop :=
  ∀ (req : Imm24) (s : State),
    (s.mode = .unconf →
      exec (.pull req) s = .next { s with errcode := .badMode, errcmd := 0x10#8 ++ req, mode := .failed }) ∧
    (s.mode = .failed → exec (.pull req) s = .next s) ∧
    (s.mode = .ready → s.scap < req.toNat + s.ilq.length →
      exec (.pull req) s = .next { s with errcode := .operand, errcmd := 0x10#8 ++ req, mode := .failed }) ∧
    ∀ B : List Byte, s.mode = .ready → req.toNat + s.ilq.length ≤ s.scap → s.srcAnswer req.toNat = some B →
      let S := s.ilq ++ B
      let n := S.length / s.bpf
      ∃ t, exec (.pull req) s = .next t ∧
        n ≤ s.params.blk ∧
        (∀ i c, i < n → c < s.ch.toNat → ∃ lo hi, S[i * s.bpf + 2 * c]? = some lo ∧ S[i * s.bpf + 2 * c + 1]? = some hi ∧
          t.mem.readWord (0x10000000 + 4 * (c * s.params.blk + i)) = some (dec16 lo hi)) ∧
        (∀ a, (∀ i c, i < n → c < s.ch.toNat → a < 0x10000000 + 4 * (c * s.params.blk + i) ∨
            0x10000000 + 4 * (c * s.params.blk + i) + 4 ≤ a) → t.mem.readByte a = s.mem.readByte a) ∧
        t.ilq = S.drop (n * s.bpf) ∧ t.ilq.length = S.length % s.bpf ∧
        t.scratch = S ++ s.scratch.drop S.length ∧
        t.nin = n ∧ t.klast.toNat = B.length ∧
        t.events = s.events ++ (if 0 < B.length then [.src] else []) ∧
        t = { s with
          scratch := t.scratch, mem := t.mem, ilq := t.ilq, nin := t.nin, klast := t.klast, events := t.events,
          source := (s.srcAdvance req.toNat).source, draws := (s.srcAdvance req.toNat).draws }

/-- R66: the source's contract: at most `req` bytes, any such answer can be given, nothing for an empty request; a
source that never answers leaves PULL stuck (U6; notes/assumptions/4.md and 5.md say how the model takes the answers). -/
def Obligations.SourceAnswersAtMostWhatIsAsked : Prop :=
  (∀ (s : State) (req : Nat) (B : List Byte), s.srcAnswer req = some B → B.length ≤ req) ∧
  (∀ (s : State) (req : Nat) (B : List Byte) (rest : List SrcAnswer), B.length ≤ req → s.source = .bytes B :: rest →
    s.srcAnswer req = some B) ∧
  (∀ s : State, s.srcAnswer 0 = some []) ∧
  ∀ (req : Imm24) (s : State) (rest : List SrcAnswer), s.mode = .ready → req.toNat + s.ilq.length ≤ s.scap →
    req.toNat ≠ 0 → s.source = .never :: rest → exec (.pull req) s = .fault .sourceNeverAnswers

/-- R117: after a PULL the queue is shorter than a frame, it holds the last bytes of `ILQ ++ B` in order, and what was
decoded before them is whole frames. -/
def Obligations.PullLosesNoByte : Prop :=
  ∀ (req : Imm24) (s t : State) (B : List Byte), s.mode = .ready → 0 < s.ch.toNat → req.toNat + s.ilq.length ≤ s.scap →
    s.srcAnswer req.toNat = some B → exec (.pull req) s = .next t →
    t.ilq.length ≤ t.bpf - 1 ∧ ∃ D, s.ilq ++ B = D ++ t.ilq ∧ D.length = t.nin * t.bpf

/-- R118: over any series of served events without a reset, whatever other commands, reads, writes to OUTBLK, faults and
discarded words fall between the PULLs and however the answers were cut: the frames the PULLs wrote are those of what was
queued followed by the concatenated answers, and the queue holds the bytes after the last whole frame. -/
def Obligations.ChunkingIsInvisible : Prop :=
  ∀ (n : Nat) (s u : State) (L : List Pulled), s.StagingInv → servedSeries pulledBy n s = some (L, u) →
    let A := s.ilq ++ (L.map (·.answer)).flatten
    (L.map (·.frames)).flatten = decodedFrames u.ch.toNat A ∧
    u.ilq = A.drop (A.length / u.bpf * u.bpf) ∧ u.ilq.length = A.length % u.bpf

/-- R140: RDREQ in every mode. -/
def Obligations.RdreqDrainsStagedBytesFirst : Prop :=
  ∀ (count : Imm24) (s : State),
    (s.mode = .unconf →
      exec (.rdreq count) s = .next { s with errcode := .badMode, errcmd := 0x20#8 ++ count, mode := .failed }) ∧
    (s.mode = .failed → exec (.rdreq count) s = .next s) ∧
    (s.mode = .ready → s.remain ≠ 0 →
      exec (.rdreq count) s = .next { s with errcode := .order, errcmd := 0x20#8 ++ count, mode := .failed }) ∧
    (s.mode = .ready → s.remain = 0 →
      let d := min s.olq.length count.toNat
      ∃ t, exec (.rdreq count) s = .next t ∧
        t.dst = s.dst ++ s.olq.take d ∧ t.olq = s.olq.drop d ∧ t.remain.toNat = count.toNat - d ∧
        (t.remain = 0 ∨ t.olq = []) ∧
        t = { s with dst := t.dst, olq := t.olq, remain := t.remain })

/-- R145, R146: ENCODE in every mode; the cut is at byte `e` of the encoded bytes, whatever `e` is. (`draws` is the
model's count of free values.) -/
def Obligations.EncodeDeliversThenStages : Prop :=
  ∀ (m : Imm24) (s : State),
    (s.mode = .unconf →
      exec (.encode m) s = .next { s with errcode := .badMode, errcmd := 0x21#8 ++ m, mode := .failed }) ∧
    (s.mode = .failed → exec (.encode m) s = .next s) ∧
    (s.mode = .ready → s.params.blk < m.toNat →
      exec (.encode m) s = .next { s with errcode := .operand, errcmd := 0x21#8 ++ m, mode := .failed }) ∧
    (s.mode = .ready → m.toNat ≤ s.params.blk → s.olq ≠ [] →
      exec (.encode m) s = .next { s with errcode := .order, errcmd := 0x21#8 ++ m, mode := .failed }) ∧
    (s.mode = .ready → m.toNat ≤ s.params.blk → s.olq = [] →
      let E := s.encFrames m.toNat
      let e := min s.remain.toNat (m.toNat * s.bpf)
      ∃ t, exec (.encode m) s = .next t ∧
        E.length = m.toNat * s.bpf ∧ t.dst = s.dst ++ E.take e ∧ t.olq = E.drop e ∧ t.remain.toNat = s.remain.toNat - e ∧
        (∀ a, t.mem.readByte a = s.mem.readByte a) ∧
        t = { s with dst := t.dst, olq := t.olq, remain := t.remain, draws := t.draws })

/-- R135: the interleaving of EncFrames: length, and the two bytes of every lane. -/
def Obligations.EncFramesInterleavesTheLanes : Prop :=
  ∀ (s : State) (m : Nat),
    (s.encFrames m).length = m * s.bpf ∧ s.encFrames 0 = [] ∧
    ∀ i c w, i < m → c < s.ch.toNat → s.mem.readWord (0x20000000 + 4 * (c * s.params.blk + i)) = some w →
      (s.encFrames m)[i * s.bpf + 2 * c]? = some (enc16 w).1 ∧ (s.encFrames m)[i * s.bpf + 2 * c + 1]? = some (enc16 w).2

/-- R147: when `m <= FWANT`, what is staged is less than a frame. -/
def Obligations.ReferenceHostStagesLessThanAFrame : Prop :=
  ∀ (m : Imm24) (s t : State), s.mode = .ready → 0 < s.ch.toNat → s.olq = [] → m.toNat ≤ s.fwant →
    exec (.encode m) s = .next t →
    t.olq.length ≤ s.bpf - 1 ∧ (m.toNat * s.bpf ≤ s.remain.toNat → t.olq = [])

/-- R150, R151: PAD in every mode: exactly REMAIN zero bytes, EOS, one pulse every time. -/
def Obligations.PadCompletesTheRequestWithZeros : Prop :=
  ∀ s : State,
    (s.mode = .unconf → exec .pad s = .next { s with errcode := .badMode, errcmd := 0x22000000, mode := .failed }) ∧
    (s.mode = .failed → exec .pad s = .next s) ∧
    (s.mode = .ready →
      exec .pad s = .next { s with
        dst := s.dst ++ List.replicate s.remain.toNat 0, remain := 0, eos := true, events := s.events ++ [.eos] })

/-- R152: over any series of served events without a reset, in any mode, whatever writes to OUTBLK, reads, faults and
discarded words fall between the commands: what is delivered and then staged grows by exactly what the ENCODEs and PADs
produced, in order, and what is staged is its end. -/
def Obligations.NoOutputByteIsLost : Prop :=
  ∀ (n : Nat) (s u : State) (P : List Byte), s.StagingInv → servedSeries producedBy n s = some (P, u) →
    u.dst ++ u.olq = s.dst ++ s.olq ++ P ∧ u.olq <:+ s.olq ++ P

/-! ### Frames -/

/-- What INIT, RDREQ, ENCODE and PAD leave unchanged in every mode: the whole memory, SCRATCH, the input queue and its
counts, the format registers, the parameters and the ports' inputs; ERRCODE and ERRCMD change only with a fault. -/
def Obligations.NonPullCommandsFrame : Prop :=
  ∀ (i : Instr) (s t : State), (∀ req, i ≠ .pull req) → i ≠ .reset → exec i s = .next t →
    (∀ a, t.mem.readByte a = s.mem.readByte a) ∧ t.scratch = s.scratch ∧ t.ilq = s.ilq ∧ t.nin = s.nin ∧
    t.klast = s.klast ∧ t.fmtRate = s.fmtRate ∧ t.fmtCh = s.fmtCh ∧ t.fmtBits = s.fmtBits ∧ t.params = s.params ∧
    t.resp = s.resp ∧ t.pending = s.pending ∧ t.source = s.source ∧
    (t.mode ≠ .failed → t.errcode = s.errcode ∧ t.errcmd = s.errcmd) ∧
    (i ≠ .init → t.ch = s.ch) ∧ (i ≠ .pad → t.eos = s.eos ∧ t.events = s.events) ∧
    (i = .init → t.dst = s.dst ∧ t.olq = s.olq ∧ t.remain = s.remain ∧ t.draws = s.draws) ∧
    (i = .pad → t.olq = s.olq ∧ t.draws = s.draws)

/-- R43, R42: no command but RESET changes a byte of OUTBLK, and only PULL (or RESET) changes a byte of INBLK. -/
def Obligations.OnlyPullWritesInblkAndNoCommandWritesOutblk : Prop :=
  ∀ (i : Instr) (s t : State), s.Inv → i ≠ .reset → exec i s = .next t →
    (∀ a, 0x20000000 ≤ a → t.mem.readByte a = s.mem.readByte a) ∧
    ((∀ req, i ≠ .pull req) → ∀ a, t.mem.readByte a = s.mem.readByte a)

/-! ### Faults and modes -/

/-- R193: a command word that faults writes ERRCODE, ERRCMD and MODE, and nothing else. -/
def Obligations.FaultEntryIsPrecise : Prop :=
  ∀ (w : Word) (s t : State), s.mode ≠ .failed → command w s = .next t → t.mode = .failed →
    t = { s with errcode := t.errcode, errcmd := w, mode := .failed } ∧ t.errcode ≠ .none ∧ t.errcode.code.toNat ≤ 6 ∧
    t.irqErr = true

/-- R196: FAILED keeps the first fault: every word but RESET is discarded with `ok`, no event but a reset changes
anything but OUTBLK (and the model's response log and count of free values), writes of the format are bus errors,
OUTBLK is still written, and registers and windows are still read. -/
def Obligations.FailedKeepsTheFirstFault : Prop :=
  (∀ (s : State) (w : Word) (rest : List HostEvent), s.mode = .failed →
    s.pending = .bus (.write 32 0x00000000 w) :: rest → w ≠ 0x02000000 →
    step s = .next { s with pending := rest, resp := s.resp ++ [.ok] }) ∧
  (∀ (s t : State) (e : HostEvent) (rest : List HostEvent), s.mode = .failed → s.pending = e :: rest →
    e.isReset = false → step s = .next t →
    t = { s with pending := rest, mem := t.mem, resp := t.resp, draws := t.draws } ∧
    (∀ a, a < 0x20000000 → t.mem.readByte a = s.mem.readByte a)) ∧
  (∀ (s : State) (addr data : Word) (rest : List HostEvent), s.mode = .failed →
    s.pending = .bus (.write 32 addr data) :: rest → addr ∈ [0x10#32, 0x14#32, 0x18#32] →
    step s = .next { s with pending := rest, resp := s.resp ++ [.busError] }) ∧
  (∀ (s : State) (c i : Nat) (w : Word) (rest : List HostEvent), s.mode = .failed → c < s.params.chmax →
    i < s.params.blk →
    s.pending = .bus (.write 32 (BitVec.ofNat 32 (0x20000000 + 4 * (c * s.params.blk + i))) w) :: rest →
    ∃ t, step s = .next t ∧ t.mem.readWord (0x20000000 + 4 * (c * s.params.blk + i)) = some w ∧
      t.resp = s.resp ++ [.ok]) ∧
  (∀ (s : State) (r : Reg) (v : Word) (rest : List HostEvent), s.mode = .failed → regRead r s = some v →
    s.pending = .bus (.read 32 (BitVec.ofNat 32 r.offset)) :: rest →
    step s = .next { s with pending := rest, resp := s.resp ++ [.data v] }) ∧
  ∀ (s : State) (a c i : Nat) (w : Word) (rest : List HostEvent), s.mode = .failed → c < s.params.chmax →
    i < s.params.blk →
    (a = 0x10000000 + 4 * (c * s.params.blk + i) ∨ a = 0x20000000 + 4 * (c * s.params.blk + i)) →
    s.mem.readWord a = some w → s.pending = .bus (.read 32 (BitVec.ofNat 32 a)) :: rest →
    step s = .next { s with pending := rest, resp := s.resp ++ [.data w] }

/-- R197, R202: only a reset leaves FAILED; `irq_err` falls nowhere else. -/
def Obligations.OnlyResetLeavesFailed : Prop :=
  ∀ s t : State, s.mode = .failed → step s = .next t → t.mode ≠ .failed →
    ∃ e rest, s.pending = e :: rest ∧ e.isReset = true ∧
      t = { s.resetBlock with pending := rest, resp := t.resp } ∧ t.irqErr = false ∧ t.mode = .unconf ∧
      t.errcode = .none ∧ t.errcmd = 0 ∧ t.ilq = [] ∧ t.olq = [] ∧ t.dst = s.dst

/-- R202: `irq_err` is the level of `MODE = FAILED`, in every state; and R22: the transitions of MODE: the only ones are
to UNCONF by reset, from UNCONF to READY by INIT, and to FAILED by a word written to CMD. -/
def Obligations.ModeChangesOnlyByResetInitOrFault : Prop :=
  (∀ s : State, s.irqErr = true ↔ s.mode = .failed) ∧
  ∀ s t : State, step s = .next t → t.mode ≠ s.mode →
    ∃ e rest, s.pending = e :: rest ∧
      ((e.isReset = true ∧ t.mode = .unconf) ∨
       (e = .bus (.write 32 0x00000000 0x01000000) ∧ s.mode = .unconf ∧ t.mode = .ready) ∨
       (∃ w, e = .bus (.write 32 0x00000000 w) ∧ s.mode ≠ .failed ∧ t.mode = .failed ∧ t.errcmd = w))

/-- R44: EOS is set by every PAD, by PAD alone, read in STATUS[2], cleared by reset alone, and no command reads it. -/
def Obligations.EosIsStickyAndGatesNothing : Prop :=
  (∀ s t : State, step s = .next t → s.eos = true → t.eos = false →
    ∃ e rest, s.pending = e :: rest ∧ e.isReset = true) ∧
  (∀ s t : State, step s = .next t → s.eos = false → t.eos = true →
    ∃ rest, s.pending = .bus (.write 32 0x00000000 0x22000000) :: rest ∧ s.mode = .ready) ∧
  (∀ s : State, s.mode = .ready → ∃ t, exec .pad s = .next t ∧ t.eos = true) ∧
  (∀ s : State, s.statusWord.getLsbD 2 = s.eos) ∧
  ∀ (i : Instr) (s t : State) (b : Bool), exec i s = .next t →
    ∃ t', exec i { s with eos := b } = .next t' ∧ t' = { t with eos := t'.eos }

/-- R29, R30, R31, R23: outside UNCONF no step but a reset changes the latched format. -/
def Obligations.FormatIsFixedOutsideUnconf : Prop :=
  ∀ (s t : State) (e : HostEvent) (rest : List HostEvent), s.pending = e :: rest → e.isReset = false →
    s.mode ≠ .unconf → step s = .next t →
    t.fmtRate = s.fmtRate ∧ t.fmtCh = s.fmtCh ∧ t.fmtBits = s.fmtBits ∧ t.ch = s.ch

/-- R200, R201, R203: at most one pulse a step, `ev_src` from a PULL that got bytes, `ev_eos` from a PAD. -/
def Obligations.PulsesComeFromPullAndPadOnly : Prop :=
  ∀ s t : State, step s = .next t →
    t.events = s.events ∨
    (t.events = s.events ++ [.src] ∧ t.klast ≠ 0 ∧
      ∃ (req : Imm24) (rest : List HostEvent), s.pending = .bus (.write 32 0x00000000 (0x10#8 ++ req)) :: rest ∧ s.mode = .ready) ∨
    (t.events = s.events ++ [.eos] ∧
      ∃ rest, s.pending = .bus (.write 32 0x00000000 0x22000000) :: rest ∧ s.mode = .ready)

/-! ### The bus -/

/-- R26: the fields of STATUS. -/
def Obligations.StatusFields : Prop :=
  ∀ s : State,
    (s.statusWord.extractLsb' 0 2).toNat = (match s.mode with | .unconf => 0 | .ready => 1 | .failed => 2) ∧
    s.statusWord.getLsbD 2 = s.eos ∧ (s.statusWord.getLsbD 3 = true ↔ 0 < s.ilq.length) ∧
    (s.statusWord.getLsbD 4 = true ↔ 0 < s.olq.length) ∧ (s.statusWord.getLsbD 5 = true ↔ s.remain ≠ 0) ∧
    s.statusWord.extractLsb' 6 26 = 0

/-- R24 to R38: what a read of each register answers at its offset, without a side effect; ERRCODE by the codes of R190,
FWANT as R35 says. -/
def Obligations.RegisterReadsAnswerTheirFields : Prop :=
  ∀ (s : State) (off : Nat) (v : Word) (rest : List HostEvent),
    s.pending = .bus (.read 32 (BitVec.ofNat 32 off)) :: rest →
    (off, v) ∈ [(0x04, s.statusWord),
      (0x08, match s.errcode with
        | .none => 0 | .cfgBits => 1 | .cfgCh => 2 | .illegal => 3 | .badMode => 4 | .operand => 5 | .order => 6),
      (0x0C, s.errcmd), (0x10, s.fmtRate), (0x14, s.fmtCh), (0x18, s.fmtBits), (0x1C, BitVec.ofNat 32 (2 * s.ch.toNat)),
      (0x20, BitVec.ofNat 32 s.params.blk), (0x24, BitVec.ofNat 32 s.params.chmax), (0x28, s.remain.setWidth 32),
      (0x2C, BitVec.ofNat 32 s.fwant), (0x30, BitVec.ofNat 32 s.nin), (0x34, s.klast.setWidth 32),
      (0x38, BitVec.ofNat 32 s.ilq.length), (0x3C, BitVec.ofNat 32 s.olq.length)] →
    step s = .next { s with pending := rest, resp := s.resp ++ [.data v] }

/-- R35: FWANT in READY is `min(ceildiv(REMAIN, BPF), BLK)`, so the least frame count that covers REMAIN, capped to BLK;
it is 0 in the other modes, whatever `CH` is, and the read of it loses no bit. -/
def Obligations.FwantCoversRemain : Prop :=
  ∀ s : State,
    (s.mode ≠ .ready → s.fwant = 0) ∧
    (∃ w, regRead .fwant s = some w ∧ w.toNat = s.fwant) ∧
    (s.mode = .ready → 0 < s.ch.toNat → s.fwant = min ((s.remain.toNat + s.bpf - 1) / s.bpf) s.params.blk ∧
      s.remain.toNat + s.bpf - 1 < 2 ^ 25 ∧
      (s.fwant < s.params.blk → s.remain.toNat ≤ s.fwant * s.bpf) ∧
      (0 < s.fwant → (s.fwant - 1) * s.bpf < s.remain.toNat))

/-- R61, R62: the address of every word of the two windows selects that word. -/
def Obligations.WindowAddressesSelectTheirWords : Prop :=
  ∀ (p : Params) (c i : Nat), c < p.chmax → i < p.blk →
    target p (BitVec.ofNat 32 (0x10000000 + 4 * (c * p.blk + i))) = .inblk c i ∧
    target p (BitVec.ofNat 32 (0x20000000 + 4 * (c * p.blk + i))) = .outblk c i

/-- R161, R160: a word written to OUTBLK is accepted in every mode, changes that word only, and is what the next read of
its address answers. -/
def Obligations.OutblkWriteThenReadReturnsTheWord : Prop :=
  ∀ (s : State) (c i : Nat) (w : Word) (rest : List HostEvent), c < s.params.chmax → i < s.params.blk →
    let a := 0x20000000 + 4 * (c * s.params.blk + i)
    s.pending = .bus (.write 32 (BitVec.ofNat 32 a) w) :: .bus (.read 32 (BitVec.ofNat 32 a)) :: rest →
    ∃ t u, step s = .next t ∧ step t = .next u ∧
      t = { s with pending := t.pending, mem := t.mem, resp := s.resp ++ [.ok] } ∧
      u = { s with pending := rest, mem := t.mem, resp := s.resp ++ [.ok, .data w] } ∧
      ∀ b, (b < a ∨ a + 4 ≤ b) → t.mem.readByte b = s.mem.readByte b

/-- R48, U2 (and notes/assumptions/3.md): a read of a window word not written since reset answers a free value and uses
it up; nothing else changes. -/
def Obligations.UnwrittenWordsReadAsFreeValues : Prop :=
  ∀ (s : State) (a c i : Nat) (rest : List HostEvent), c < s.params.chmax → i < s.params.blk →
    (a = 0x10000000 + 4 * (c * s.params.blk + i) ∨ a = 0x20000000 + 4 * (c * s.params.blk + i)) →
    s.mem.readWord a = none → s.pending = .bus (.read 32 (BitVec.ofNat 32 a)) :: rest →
    step s = .next { s with
      pending := rest, resp := s.resp ++ [.data (Config.freeWord s.draws)], draws := s.draws + 1 }

/-- R29 to R31, R161: in UNCONF the three format registers store what is written. -/
def Obligations.FormatRegistersStoreInUnconf : Prop :=
  ∀ (s : State) (v : Word) (rest : List HostEvent), s.mode = .unconf →
    (s.pending = .bus (.write 32 0x10 v) :: rest →
      step s = .next { s with pending := rest, fmtRate := v, resp := s.resp ++ [.ok] }) ∧
    (s.pending = .bus (.write 32 0x14 v) :: rest →
      step s = .next { s with pending := rest, fmtCh := v, resp := s.resp ++ [.ok] }) ∧
    (s.pending = .bus (.write 32 0x18 v) :: rest →
      step s = .next { s with pending := rest, fmtBits := v, resp := s.resp ++ [.ok] })

/-- R162: a transaction is answered with a bus error exactly for the causes (a) to (f), and then it changes no state of
the block. -/
def Obligations.BusErrorsAreExactlyTheListedCauses : Prop :=
  ∀ (s t : State) (b : BusTxn) (rest : List HostEvent), s.pending = .bus b :: rest → step s = .next t →
    (t.resp = s.resp ++ [.busError] ↔ BusErrorCause s b) ∧
    (BusErrorCause s b → t = { s with pending := rest, resp := s.resp ++ [.busError] })

/-- R69, R160: a read changes no state of the block (the response log and the count of free values are the model's). -/
def Obligations.ReadsHaveNoSideEffect : Prop :=
  ∀ (s : State) (width : Nat) (addr : Word) (rest : List HostEvent), s.pending = .bus (.read width addr) :: rest →
    ∃ t r, step s = .next t ∧ t = { s with pending := rest, resp := s.resp ++ [r], draws := t.draws } ∧ r ≠ .ok

/-! ### The codec -/

/-- R110: `Dec16` denotes the signed little-endian sample divided by 32768, exactly (`f32Units` counts in `2^-149`). -/
def Obligations.Dec16DenotesTheSampleOver32768 : Prop :=
  ∀ lo hi : Byte, f32Units (dec16 lo hi) * 32768 = (hi ++ lo : BitVec 16).toInt * f32One

/-- R111: the pattern of `Dec16`. -/
def Obligations.Dec16Pattern : Prop :=
  ∀ lo hi : Byte,
    let s := (hi ++ lo : BitVec 16).toInt
    (s = 0 → dec16 lo hi = 0x00000000) ∧
    (s ≠ 0 → ∃ e, e ≤ 15 ∧ 2 ^ e ≤ s.natAbs ∧ s.natAbs < 2 ^ (e + 1) ∧
      ((dec16 lo hi).getLsbD 31 = true ↔ s < 0) ∧ ((dec16 lo hi).extractLsb' 23 8).toNat = e + 112 ∧
      ((dec16 lo hi).extractLsb' 0 23).toNat = (s.natAbs - 2 ^ e) * 2 ^ (23 - e))

/-- R112: the range of `Dec16`, its extremes, and that all results are distinct. -/
def Obligations.Dec16RangeAndDistinctness : Prop :=
  (∀ lo hi : Byte, -f32One ≤ f32Units (dec16 lo hi) ∧ f32Units (dec16 lo hi) * 32768 ≤ 32767 * f32One) ∧
  dec16 0x00 0x80 = 0xBF800000 ∧ dec16 0xFF 0x7F = 0x3F7FFE00 ∧
  ∀ lo hi lo' hi' : Byte, dec16 lo hi = dec16 lo' hi' → lo = lo' ∧ hi = hi'

/-- R130, R131: `Enc16` gives the two's complement of its sample, low byte first; a NaN goes to the parameter, else the
sample saturates at -1.0 and 1.0 and is otherwise the exact product truncated toward zero, in [-32767, 32767], so that
the second clamp never changes it. -/
def Obligations.Enc16SaturatesOrTruncates : Prop :=
  ∀ w : Word, ((enc16 w).2 ++ (enc16 w).1 : BitVec 16).toInt = encSample w ∧
    (isNaN w = true → encSample w = (Config.encNaN w).toInt) ∧
    (isNaN w = false →
      (f32Units w ≤ -f32One → encSample w = -32768) ∧
      (f32One ≤ f32Units w → encSample w = 32767) ∧
      (-f32One < f32Units w → f32Units w < f32One →
        -32767 ≤ encSample w ∧ encSample w ≤ 32767 ∧
        (0 ≤ f32Units w → 0 ≤ encSample w ∧ encSample w * f32One ≤ f32Units w * 32768 ∧
          f32Units w * 32768 < (encSample w + 1) * f32One) ∧
        (f32Units w ≤ 0 → encSample w ≤ 0 ∧ f32Units w * 32768 ≤ encSample w * f32One ∧
          (encSample w - 1) * f32One < f32Units w * 32768)))

/-- R132: `Enc16` on the special inputs. -/
def Obligations.Enc16SpecialInputs : Prop :=
  enc16 0x00000000 = (0x00, 0x00) ∧ enc16 0x80000000 = (0x00, 0x00) ∧
  (∀ w : Word, ((w.extractLsb' 23 8).toNat = 0 ∨ (f32Units w).natAbs * 32768 < 2 ^ 149) → enc16 w = (0x00, 0x00)) ∧
  enc16 0x7F800000 = (0xFF, 0x7F) ∧ enc16 0xFF800000 = (0x00, 0x80) ∧
  enc16 0x7F7FFFFF = (0xFF, 0x7F) ∧ enc16 0xFF7FFFFF = (0x00, 0x80) ∧
  enc16 0xBF800000 = (0x00, 0x80) ∧ enc16 0x3F800000 = (0xFF, 0x7F) ∧
  (∀ w : Word, isNaN w = false → encSample w ≠ 32768) ∧
  enc16 0x3F7FFFFF = (0xFF, 0x7F) ∧ enc16 0xBF7FFFFF = (0x01, 0x80) ∧ enc16 0xBDCCCCCD = (0x34, 0xF3)

/-- R133: a NaN is encoded by the parameter, whatever it is, and without any fault. -/
def Obligations.NanEncodesByTheParameter : Prop :=
  ∀ w : Word, (w.extractLsb' 23 8).toNat = 255 → (w.extractLsb' 0 23).toNat ≠ 0 →
    enc16 w = ((Config.encNaN w).extractLsb' 0 8, (Config.encNaN w).extractLsb' 8 8)

/-- R134: encoding a decoded sample gives its bytes back. -/
def Obligations.EncodeAfterDecodeIsIdentity : Prop := ∀ lo hi : Byte, enc16 (dec16 lo hi) = (lo, hi)

/-! ### Invariants -/

/-- R48, R45: the invariant holds at reset, whatever the parameters of the build. -/
def Obligations.InvariantHoldsAtReset : Prop := State.reset.Inv ∧ ∀ p : Params, (State.resetWith p).Inv

/-- Every step keeps the invariant, from every state that has it. -/
def Obligations.EveryStepKeepsTheInvariant : Prop := ∀ s t : State, s.Inv → step s = .next t → t.Inv

/-- R45: its five clauses hold in every state reachable from reset, whatever arrives and whatever the source answers. -/
def Obligations.ReachableStatesHaveTheStagingInvariant : Prop := ∀ s : State, Reachable s → s.StagingInv

/-! ### The host's READ -/

/-- R178, R232: with any stretcher that keeps its contract, a READ that returns has appended exactly `count` bytes to
the destination stream, has left no request open, and has not faulted. -/
def Obligations.ReadDeliversExactlyCountBytes : Prop :=
  ∀ (σ : Type) (M : Stretcher σ) (fuel : Nat) (count : Imm24) (x x' : σ) (s t : State),
    s.Inv → s.mode = .ready → s.remain = 0 → readMacro M fuel count x s = .returned x' t →
    s.dst <+: t.dst ∧ t.dst.length = s.dst.length + count.toNat ∧ t.remain = 0 ∧ t.mode = .ready ∧ t.Inv

/-- R232: with any stretcher that keeps its contract, no READ issued at `REMAIN = 0` in READY ever faults, whether it
returns, goes on, or waits for a source that never answers. It is about the model's READ: a bounded number of iterations,
nothing arriving between its transactions, a pull count of at most `2^24 - 1` (notes/assumptions/16.md), and the stop
`sourceNeverAnswers` (notes/assumptions/5.md). -/
def Obligations.ReferenceHostNeverFaults : Prop :=
  ∀ (σ : Type) (M : Stretcher σ) (fuel : Nat) (count : Imm24) (x : σ) (s : State),
    s.Inv → s.mode = .ready → s.remain = 0 →
    match readMacro M fuel count x s with
    | .returned _ t => t.mode = .ready ∧ t.remain = 0 ∧ t.errcode = .none
    | .running _ t => t.mode = .ready ∧ t.errcode = .none
    | .stopped f => f = .sourceNeverAnswers
    | .refused _ => False

/-! ### Reads of written window words -/

/-- R160: in every mode a 32-bit read of a word of INBLK or OUTBLK written since reset answers the word it holds, and
nothing else changes. -/
def Obligations.WrittenWordsReadAsTheyWereWritten : Prop :=
  ∀ (s : State) (a c i : Nat) (w : Word) (rest : List HostEvent), c < s.params.chmax → i < s.params.blk →
    (a = 0x10000000 + 4 * (c * s.params.blk + i) ∨ a = 0x20000000 + 4 * (c * s.params.blk + i)) →
    s.mem.readWord a = some w → s.pending = .bus (.read 32 (BitVec.ofNat 32 a)) :: rest →
    step s = .next { s with pending := rest, resp := s.resp ++ [.data w] }
end

