-- ==== Sys2Proof/Laws/Memory.lean ====
section
/-! SUPPORT. The laws of memory: read after write, frames, the canonical form; and of the lanes a PULL writes. -/

namespace Sys2Proof.Machine

/-! ### One byte -/

theorem Memory.readByte_writeByte (m : Memory) (a a' : Nat) (b : Byte) :
    (m.writeByte a b).readByte a' = if a = a' then some b else m.readByte a' := by
  induction m with
  | nil => simp [writeByte, readByte]
  | cons x rest ih =>
    obtain ⟨k, v⟩ := x
    unfold writeByte
    split
    · rfl
    · split
      · subst k
        simp only [readByte]
        split <;> rfl
      · rename_i hne
        simp only [readByte, ih]
        by_cases h : k = a'
        · subst h; simp [Ne.symm hne]
        · simp [h]

theorem Memory.readByte_writeByte_same (m : Memory) (a : Nat) (b : Byte) : (m.writeByte a b).readByte a = some b := by
  simp [readByte_writeByte]

theorem Memory.readByte_writeByte_other (m : Memory) {a a' : Nat} (b : Byte) (h : a ≠ a') :
    (m.writeByte a b).readByte a' = m.readByte a' := by
  simp [readByte_writeByte, h]

theorem Memory.mem_writeByte {m : Memory} {a : Nat} {b : Byte} {x : Host.Cell} (h : x ∈ m.writeByte a b) :
    x = (a, b) ∨ x ∈ m := by
  induction m with
  | nil => simpa [writeByte] using h
  | cons y rest ih =>
    obtain ⟨k, v⟩ := y
    unfold writeByte at h
    split at h
    · simpa using h
    · split at h
      · simp only [List.mem_cons] at h ⊢; tauto
      · simp only [List.mem_cons] at h ⊢
        rcases h with h | h
        · exact .inr (.inl h)
        · rcases ih h with h | h <;> tauto

theorem Memory.wf_writeByte {m : Memory} (h : m.wf) (a : Nat) (b : Byte) : (m.writeByte a b).wf := by
  induction m with
  | nil => simp [writeByte, wf]
  | cons y rest ih =>
    obtain ⟨k, v⟩ := y
    obtain ⟨hk, hr⟩ := List.pairwise_cons.mp h
    unfold writeByte
    split
    · rename_i hlt
      refine List.pairwise_cons.mpr ⟨?_, h⟩
      intro z hz
      rcases List.mem_cons.mp hz with rfl | hz
      · exact hlt
      · exact hlt.trans (hk z hz)
    · split
      · subst k; exact List.pairwise_cons.mpr ⟨hk, hr⟩
      · refine List.pairwise_cons.mpr ⟨?_, ih hr⟩
        intro z hz
        rcases mem_writeByte hz with rfl | hz
        · show k < a; omega
        · exact hk z hz

/-! ### One word -/

theorem Memory.readByte_writeWord_other (m : Memory) {a a' : Nat} (w : Word) (h : a' < a ∨ a + 4 ≤ a') :
    (m.writeWord a w).readByte a' = m.readByte a' := by
  unfold writeWord
  rw [readByte_writeByte_other _ _ (by omega), readByte_writeByte_other _ _ (by omega),
    readByte_writeByte_other _ _ (by omega), readByte_writeByte_other _ _ (by omega)]

theorem word_of_bytes (w : Word) :
    (w.extractLsb' 24 8 ++ w.extractLsb' 16 8 ++ w.extractLsb' 8 8 ++ w.extractLsb' 0 8 : BitVec 32) = w := by
  ext i hi
  simp only [BitVec.getElem_append, BitVec.getElem_extractLsb']
  split
  · simp [BitVec.getLsbD_eq_getElem hi]
  · split
    · rw [show 8 + (i - 8) = i by omega]; simp [BitVec.getLsbD_eq_getElem hi]
    · split
      · rw [show 16 + (i - 8 - 8) = i by omega]; simp [BitVec.getLsbD_eq_getElem hi]
      · rw [show 24 + (i - 8 - 8 - 8) = i by omega]; simp [BitVec.getLsbD_eq_getElem hi]

theorem Memory.readWord_writeWord_same (m : Memory) (a : Nat) (w : Word) : (m.writeWord a w).readWord a = some w := by
  simp only [readWord, writeWord, readByte_writeByte]
  simp only [show ¬ (a + 3 = a) by omega, show ¬ (a + 2 = a) by omega, show ¬ (a + 1 = a) by omega,
    show ¬ (a + 3 = a + 1) by omega, show ¬ (a + 2 = a + 1) by omega, show ¬ (a + 3 = a + 2) by omega, if_true, if_false]
  exact congrArg some (word_of_bytes w)

theorem Memory.readWord_congr {m m' : Memory} {a : Nat} (h : ∀ j < 4, m.readByte (a + j) = m'.readByte (a + j)) :
    m.readWord a = m'.readWord a := by
  have h0 := h 0 (by omega); have h1 := h 1 (by omega); have h2 := h 2 (by omega); have h3 := h 3 (by omega)
  simp only [Nat.add_zero] at h0
  simp only [readWord, h0, h1, h2, h3]

theorem Memory.readWord_writeWord_other (m : Memory) {a a' : Nat} (w : Word) (h : a' + 4 ≤ a ∨ a + 4 ≤ a') :
    (m.writeWord a w).readWord a' = m.readWord a' :=
  readWord_congr fun j hj => readByte_writeWord_other m w (by omega)

theorem Memory.wf_writeWord {m : Memory} (h : m.wf) (a : Nat) (w : Word) : (m.writeWord a w).wf :=
  wf_writeByte (wf_writeByte (wf_writeByte (wf_writeByte h _ _) _ _) _ _) _ _

theorem Memory.mem_writeWord {m : Memory} {a : Nat} {w : Word} {x : Host.Cell} (h : x ∈ m.writeWord a w) :
    (a ≤ x.1 ∧ x.1 < a + 4) ∨ x ∈ m := by
  unfold writeWord at h
  rcases mem_writeByte h with rfl | h
  · exact .inl ⟨by simp, by simp⟩
  rcases mem_writeByte h with rfl | h
  · exact .inl ⟨by simp, by simp⟩
  rcases mem_writeByte h with rfl | h
  · exact .inl ⟨by simp, by simp⟩
  rcases mem_writeByte h with rfl | h
  · exact .inl ⟨by simp, by simp⟩
  exact .inr h

/-! ### Lanes -/

theorem mem_lanes {n ch : Nat} {ic : Nat × Nat} : ic ∈ lanes n ch ↔ ic.1 < n ∧ ic.2 < ch := by
  obtain ⟨i, c⟩ := ic
  simp only [lanes, List.mem_flatMap, List.mem_range, List.mem_map, Prod.mk.injEq]
  constructor
  · rintro ⟨i', hi, c', hc, rfl, rfl⟩; exact ⟨hi, hc⟩
  · rintro ⟨hi, hc⟩; exact ⟨i, hi, c, hc, rfl, rfl⟩

/-- Two lanes of one window lie at different words. -/
theorem lane_word_inj {blk c i c' i' : Nat} (hi : i < blk) (hi' : i' < blk) (h : c * blk + i = c' * blk + i') :
    c = c' ∧ i = i' := by
  have hc : c = c' := by
    have h1 : (c * blk + i) / blk = c := by
      rw [Nat.mul_comm, Nat.mul_add_div (by omega), Nat.div_eq_of_lt hi]; simp
    have h2 : (c' * blk + i') / blk = c' := by
      rw [Nat.mul_comm, Nat.mul_add_div (by omega), Nat.div_eq_of_lt hi']; simp
    rw [← h1, ← h2, h]
  subst hc
  exact ⟨rfl, by omega⟩

/-- What a series of lane writes does to one byte outside all of them. -/
theorem foldl_writeWord_readByte_other {ι : Type} (addr : ι → Nat) (val : ι → Word) (l : List ι) (m : Memory) (a : Nat)
    (h : ∀ x ∈ l, a < addr x ∨ addr x + 4 ≤ a) :
    (l.foldl (fun m x => m.writeWord (addr x) (val x)) m).readByte a = m.readByte a := by
  induction l generalizing m with
  | nil => rfl
  | cons x rest ih =>
    rw [List.foldl_cons, ih _ fun y hy => h y (List.mem_cons_of_mem _ hy)]
    exact Memory.readByte_writeWord_other m _ (h x List.mem_cons_self)

/-- What a series of lane writes leaves at one of its lanes, when equal addresses carry equal values and different
lanes do not overlap. -/
theorem foldl_writeWord_readWord {ι : Type} (addr : ι → Nat) (val : ι → Word) (l : List ι) (m : Memory) {x : ι}
    (hx : x ∈ l) (h : ∀ y ∈ l, (addr y = addr x ∧ val y = val x) ∨ addr y + 4 ≤ addr x ∨ addr x + 4 ≤ addr y) :
    (l.foldl (fun m x => m.writeWord (addr x) (val x)) m).readWord (addr x) = some (val x) := by
  have key : ∀ (l : List ι) (m : Memory),
      (∀ y ∈ l, (addr y = addr x ∧ val y = val x) ∨ addr y + 4 ≤ addr x ∨ addr x + 4 ≤ addr y) →
      (x ∈ l ∨ m.readWord (addr x) = some (val x)) →
      (l.foldl (fun m x => m.writeWord (addr x) (val x)) m).readWord (addr x) = some (val x) := by
    intro l
    induction l with
    | nil => intro m _ hm; simpa using hm
    | cons y rest ih =>
      intro m hall hm
      rw [List.foldl_cons]
      refine ih _ (fun z hz => hall z (List.mem_cons_of_mem _ hz)) ?_
      rcases hall y List.mem_cons_self with ⟨ha, hv⟩ | hne
      · right; rw [ha, hv]; exact Memory.readWord_writeWord_same m _ _
      · rcases hm with hm | hm
        · rcases List.mem_cons.mp hm with rfl | hm
          · omega
          · exact .inl hm
        · right; rw [Memory.readWord_writeWord_other m _ (by omega)]; exact hm
  exact key l m h (.inl hx)

theorem foldl_writeWord_wf {ι : Type} (addr : ι → Nat) (val : ι → Word) (l : List ι) {m : Memory} (h : m.wf) :
    (l.foldl (fun m x => m.writeWord (addr x) (val x)) m).wf := by
  induction l generalizing m with
  | nil => exact h
  | cons x rest ih => exact ih (Memory.wf_writeWord h _ _)

theorem mem_foldl_writeWord {ι : Type} (addr : ι → Nat) (val : ι → Word) (l : List ι) {m : Memory} {x : Host.Cell}
    (h : x ∈ l.foldl (fun m x => m.writeWord (addr x) (val x)) m) :
    (∃ y ∈ l, addr y ≤ x.1 ∧ x.1 < addr y + 4) ∨ x ∈ m := by
  induction l generalizing m with
  | nil => exact .inr h
  | cons y rest ih =>
    rcases ih h with ⟨z, hz, hb⟩ | h
    · exact .inl ⟨z, List.mem_cons_of_mem _ hz, hb⟩
    · rcases Memory.mem_writeWord h with hb | h
      · exact .inl ⟨y, List.mem_cons_self, hb⟩
      · exact .inr h

/-! ### `decodeFrames` -/

theorem decodeFrames_wf (p : Params) (ch n : Nat) (S : List Byte) {m : Memory} (h : m.wf) :
    (decodeFrames p ch n S m).wf :=
  foldl_writeWord_wf (fun ic : Nat × Nat => inAddr p ic.2 ic.1)
    (fun ic : Nat × Nat => laneDecode (2 * ch) S ic.1 ic.2) _ h

theorem decodeFrames_readByte_other (p : Params) (ch n : Nat) (S : List Byte) (m : Memory) (a : Nat)
    (h : ∀ i c, i < n → c < ch → a < inAddr p c i ∨ inAddr p c i + 4 ≤ a) :
    (decodeFrames p ch n S m).readByte a = m.readByte a :=
  foldl_writeWord_readByte_other (fun ic : Nat × Nat => inAddr p ic.2 ic.1)
    (fun ic : Nat × Nat => laneDecode (2 * ch) S ic.1 ic.2) _ m a
    fun ic hic => h ic.1 ic.2 (mem_lanes.mp hic).1 (mem_lanes.mp hic).2

theorem decodeFrames_readWord (p : Params) (ch n : Nat) (S : List Byte) (m : Memory) {i c : Nat}
    (hi : i < n) (hc : c < ch) (hn : n ≤ p.blk) :
    (decodeFrames p ch n S m).readWord (inAddr p c i) = some (laneDecode (2 * ch) S i c) := by
  refine foldl_writeWord_readWord (fun ic : Nat × Nat => inAddr p ic.2 ic.1)
    (fun ic => laneDecode (2 * ch) S ic.1 ic.2) _ m (x := (i, c)) (mem_lanes.mpr ⟨hi, hc⟩) ?_
  rintro ⟨i', c'⟩ hy
  obtain ⟨hi', hc'⟩ := mem_lanes.mp hy
  simp only [inAddr]
  by_cases heq : c' * p.blk + i' = c * p.blk + i
  · obtain ⟨rfl, rfl⟩ := lane_word_inj (show i' < p.blk from lt_of_lt_of_le hi' hn) (lt_of_lt_of_le hi hn) heq
    exact .inl ⟨rfl, rfl⟩
  · omega

theorem mem_decodeFrames (p : Params) (ch n : Nat) (S : List Byte) {m : Memory} {x : Host.Cell}
    (h : x ∈ decodeFrames p ch n S m) :
    (∃ i c, i < n ∧ c < ch ∧ inAddr p c i ≤ x.1 ∧ x.1 < inAddr p c i + 4) ∨ x ∈ m := by
  rcases mem_foldl_writeWord (fun ic : Nat × Nat => inAddr p ic.2 ic.1)
    (fun ic => laneDecode (2 * ch) S ic.1 ic.2) _ h with ⟨ic, hic, hb⟩ | h
  · exact .inl ⟨ic.1, ic.2, (mem_lanes.mp hic).1, (mem_lanes.mp hic).2, hb⟩
  · exact .inr h

end Sys2Proof.Machine
end

