-- ==== Sys2Proof/Laws/State.lean ====
section
/-! SUPPORT. One lemma per field per named update of State, so that no proof unfolds a record update. -/

namespace Sys2Proof.Machine

variable (s : State)

/-! ### `dstWrite` -/

@[simp] theorem State.dstWrite_params (b : List Byte) : (s.dstWrite b).params = s.params := rfl
@[simp] theorem State.dstWrite_mode (b : List Byte) : (s.dstWrite b).mode = s.mode := rfl
@[simp] theorem State.dstWrite_ch (b : List Byte) : (s.dstWrite b).ch = s.ch := rfl
@[simp] theorem State.dstWrite_errcode (b : List Byte) : (s.dstWrite b).errcode = s.errcode := rfl
@[simp] theorem State.dstWrite_errcmd (b : List Byte) : (s.dstWrite b).errcmd = s.errcmd := rfl
@[simp] theorem State.dstWrite_fmtRate (b : List Byte) : (s.dstWrite b).fmtRate = s.fmtRate := rfl
@[simp] theorem State.dstWrite_fmtCh (b : List Byte) : (s.dstWrite b).fmtCh = s.fmtCh := rfl
@[simp] theorem State.dstWrite_fmtBits (b : List Byte) : (s.dstWrite b).fmtBits = s.fmtBits := rfl
@[simp] theorem State.dstWrite_remain (b : List Byte) : (s.dstWrite b).remain = s.remain := rfl
@[simp] theorem State.dstWrite_nin (b : List Byte) : (s.dstWrite b).nin = s.nin := rfl
@[simp] theorem State.dstWrite_klast (b : List Byte) : (s.dstWrite b).klast = s.klast := rfl
@[simp] theorem State.dstWrite_eos (b : List Byte) : (s.dstWrite b).eos = s.eos := rfl
@[simp] theorem State.dstWrite_ilq (b : List Byte) : (s.dstWrite b).ilq = s.ilq := rfl
@[simp] theorem State.dstWrite_olq (b : List Byte) : (s.dstWrite b).olq = s.olq := rfl
@[simp] theorem State.dstWrite_scratch (b : List Byte) : (s.dstWrite b).scratch = s.scratch := rfl
@[simp] theorem State.dstWrite_mem (b : List Byte) : (s.dstWrite b).mem = s.mem := rfl
@[simp] theorem State.dstWrite_dst (b : List Byte) : (s.dstWrite b).dst = s.dst ++ b := rfl
@[simp] theorem State.dstWrite_events (b : List Byte) : (s.dstWrite b).events = s.events := rfl
@[simp] theorem State.dstWrite_resp (b : List Byte) : (s.dstWrite b).resp = s.resp := rfl
@[simp] theorem State.dstWrite_pending (b : List Byte) : (s.dstWrite b).pending = s.pending := rfl
@[simp] theorem State.dstWrite_source (b : List Byte) : (s.dstWrite b).source = s.source := rfl
@[simp] theorem State.dstWrite_draws (b : List Byte) : (s.dstWrite b).draws = s.draws := rfl

/-! ### `pulse` -/

@[simp] theorem State.pulse_params (ev : Event) : (s.pulse ev).params = s.params := rfl
@[simp] theorem State.pulse_mode (ev : Event) : (s.pulse ev).mode = s.mode := rfl
@[simp] theorem State.pulse_ch (ev : Event) : (s.pulse ev).ch = s.ch := rfl
@[simp] theorem State.pulse_errcode (ev : Event) : (s.pulse ev).errcode = s.errcode := rfl
@[simp] theorem State.pulse_errcmd (ev : Event) : (s.pulse ev).errcmd = s.errcmd := rfl
@[simp] theorem State.pulse_fmtRate (ev : Event) : (s.pulse ev).fmtRate = s.fmtRate := rfl
@[simp] theorem State.pulse_fmtCh (ev : Event) : (s.pulse ev).fmtCh = s.fmtCh := rfl
@[simp] theorem State.pulse_fmtBits (ev : Event) : (s.pulse ev).fmtBits = s.fmtBits := rfl
@[simp] theorem State.pulse_remain (ev : Event) : (s.pulse ev).remain = s.remain := rfl
@[simp] theorem State.pulse_nin (ev : Event) : (s.pulse ev).nin = s.nin := rfl
@[simp] theorem State.pulse_klast (ev : Event) : (s.pulse ev).klast = s.klast := rfl
@[simp] theorem State.pulse_eos (ev : Event) : (s.pulse ev).eos = s.eos := rfl
@[simp] theorem State.pulse_ilq (ev : Event) : (s.pulse ev).ilq = s.ilq := rfl
@[simp] theorem State.pulse_olq (ev : Event) : (s.pulse ev).olq = s.olq := rfl
@[simp] theorem State.pulse_scratch (ev : Event) : (s.pulse ev).scratch = s.scratch := rfl
@[simp] theorem State.pulse_mem (ev : Event) : (s.pulse ev).mem = s.mem := rfl
@[simp] theorem State.pulse_dst (ev : Event) : (s.pulse ev).dst = s.dst := rfl
@[simp] theorem State.pulse_events (ev : Event) : (s.pulse ev).events = s.events ++ [ev] := rfl
@[simp] theorem State.pulse_resp (ev : Event) : (s.pulse ev).resp = s.resp := rfl
@[simp] theorem State.pulse_pending (ev : Event) : (s.pulse ev).pending = s.pending := rfl
@[simp] theorem State.pulse_source (ev : Event) : (s.pulse ev).source = s.source := rfl
@[simp] theorem State.pulse_draws (ev : Event) : (s.pulse ev).draws = s.draws := rfl

/-! ### `respond` -/

@[simp] theorem State.respond_params (r : BusResp) : (s.respond r).params = s.params := rfl
@[simp] theorem State.respond_mode (r : BusResp) : (s.respond r).mode = s.mode := rfl
@[simp] theorem State.respond_ch (r : BusResp) : (s.respond r).ch = s.ch := rfl
@[simp] theorem State.respond_errcode (r : BusResp) : (s.respond r).errcode = s.errcode := rfl
@[simp] theorem State.respond_errcmd (r : BusResp) : (s.respond r).errcmd = s.errcmd := rfl
@[simp] theorem State.respond_fmtRate (r : BusResp) : (s.respond r).fmtRate = s.fmtRate := rfl
@[simp] theorem State.respond_fmtCh (r : BusResp) : (s.respond r).fmtCh = s.fmtCh := rfl
@[simp] theorem State.respond_fmtBits (r : BusResp) : (s.respond r).fmtBits = s.fmtBits := rfl
@[simp] theorem State.respond_remain (r : BusResp) : (s.respond r).remain = s.remain := rfl
@[simp] theorem State.respond_nin (r : BusResp) : (s.respond r).nin = s.nin := rfl
@[simp] theorem State.respond_klast (r : BusResp) : (s.respond r).klast = s.klast := rfl
@[simp] theorem State.respond_eos (r : BusResp) : (s.respond r).eos = s.eos := rfl
@[simp] theorem State.respond_ilq (r : BusResp) : (s.respond r).ilq = s.ilq := rfl
@[simp] theorem State.respond_olq (r : BusResp) : (s.respond r).olq = s.olq := rfl
@[simp] theorem State.respond_scratch (r : BusResp) : (s.respond r).scratch = s.scratch := rfl
@[simp] theorem State.respond_mem (r : BusResp) : (s.respond r).mem = s.mem := rfl
@[simp] theorem State.respond_dst (r : BusResp) : (s.respond r).dst = s.dst := rfl
@[simp] theorem State.respond_events (r : BusResp) : (s.respond r).events = s.events := rfl
@[simp] theorem State.respond_resp (r : BusResp) : (s.respond r).resp = s.resp ++ [r] := rfl
@[simp] theorem State.respond_pending (r : BusResp) : (s.respond r).pending = s.pending := rfl
@[simp] theorem State.respond_source (r : BusResp) : (s.respond r).source = s.source := rfl
@[simp] theorem State.respond_draws (r : BusResp) : (s.respond r).draws = s.draws := rfl

/-! ### `takeFault` -/

@[simp] theorem State.takeFault_params (c : Cause) (w : Word) : (s.takeFault c w).params = s.params := rfl
@[simp] theorem State.takeFault_mode (c : Cause) (w : Word) : (s.takeFault c w).mode = .failed := rfl
@[simp] theorem State.takeFault_ch (c : Cause) (w : Word) : (s.takeFault c w).ch = s.ch := rfl
@[simp] theorem State.takeFault_errcode (c : Cause) (w : Word) : (s.takeFault c w).errcode = c := rfl
@[simp] theorem State.takeFault_errcmd (c : Cause) (w : Word) : (s.takeFault c w).errcmd = w := rfl
@[simp] theorem State.takeFault_fmtRate (c : Cause) (w : Word) : (s.takeFault c w).fmtRate = s.fmtRate := rfl
@[simp] theorem State.takeFault_fmtCh (c : Cause) (w : Word) : (s.takeFault c w).fmtCh = s.fmtCh := rfl
@[simp] theorem State.takeFault_fmtBits (c : Cause) (w : Word) : (s.takeFault c w).fmtBits = s.fmtBits := rfl
@[simp] theorem State.takeFault_remain (c : Cause) (w : Word) : (s.takeFault c w).remain = s.remain := rfl
@[simp] theorem State.takeFault_nin (c : Cause) (w : Word) : (s.takeFault c w).nin = s.nin := rfl
@[simp] theorem State.takeFault_klast (c : Cause) (w : Word) : (s.takeFault c w).klast = s.klast := rfl
@[simp] theorem State.takeFault_eos (c : Cause) (w : Word) : (s.takeFault c w).eos = s.eos := rfl
@[simp] theorem State.takeFault_ilq (c : Cause) (w : Word) : (s.takeFault c w).ilq = s.ilq := rfl
@[simp] theorem State.takeFault_olq (c : Cause) (w : Word) : (s.takeFault c w).olq = s.olq := rfl
@[simp] theorem State.takeFault_scratch (c : Cause) (w : Word) : (s.takeFault c w).scratch = s.scratch := rfl
@[simp] theorem State.takeFault_mem (c : Cause) (w : Word) : (s.takeFault c w).mem = s.mem := rfl
@[simp] theorem State.takeFault_dst (c : Cause) (w : Word) : (s.takeFault c w).dst = s.dst := rfl
@[simp] theorem State.takeFault_events (c : Cause) (w : Word) : (s.takeFault c w).events = s.events := rfl
@[simp] theorem State.takeFault_resp (c : Cause) (w : Word) : (s.takeFault c w).resp = s.resp := rfl
@[simp] theorem State.takeFault_pending (c : Cause) (w : Word) : (s.takeFault c w).pending = s.pending := rfl
@[simp] theorem State.takeFault_source (c : Cause) (w : Word) : (s.takeFault c w).source = s.source := rfl
@[simp] theorem State.takeFault_draws (c : Cause) (w : Word) : (s.takeFault c w).draws = s.draws := rfl

/-! ### `deliver` -/

@[simp] theorem State.deliver_params (bytes staged : List Byte) (rest : Nat) : (s.deliver bytes staged rest).params = s.params := rfl
@[simp] theorem State.deliver_mode (bytes staged : List Byte) (rest : Nat) : (s.deliver bytes staged rest).mode = s.mode := rfl
@[simp] theorem State.deliver_ch (bytes staged : List Byte) (rest : Nat) : (s.deliver bytes staged rest).ch = s.ch := rfl
@[simp] theorem State.deliver_errcode (bytes staged : List Byte) (rest : Nat) : (s.deliver bytes staged rest).errcode = s.errcode := rfl
@[simp] theorem State.deliver_errcmd (bytes staged : List Byte) (rest : Nat) : (s.deliver bytes staged rest).errcmd = s.errcmd := rfl
@[simp] theorem State.deliver_fmtRate (bytes staged : List Byte) (rest : Nat) : (s.deliver bytes staged rest).fmtRate = s.fmtRate := rfl
@[simp] theorem State.deliver_fmtCh (bytes staged : List Byte) (rest : Nat) : (s.deliver bytes staged rest).fmtCh = s.fmtCh := rfl
@[simp] theorem State.deliver_fmtBits (bytes staged : List Byte) (rest : Nat) : (s.deliver bytes staged rest).fmtBits = s.fmtBits := rfl
@[simp] theorem State.deliver_remain (bytes staged : List Byte) (rest : Nat) : (s.deliver bytes staged rest).remain = BitVec.ofNat 24 rest := rfl
@[simp] theorem State.deliver_nin (bytes staged : List Byte) (rest : Nat) : (s.deliver bytes staged rest).nin = s.nin := rfl
@[simp] theorem State.deliver_klast (bytes staged : List Byte) (rest : Nat) : (s.deliver bytes staged rest).klast = s.klast := rfl
@[simp] theorem State.deliver_eos (bytes staged : List Byte) (rest : Nat) : (s.deliver bytes staged rest).eos = s.eos := rfl
@[simp] theorem State.deliver_ilq (bytes staged : List Byte) (rest : Nat) : (s.deliver bytes staged rest).ilq = s.ilq := rfl
@[simp] theorem State.deliver_olq (bytes staged : List Byte) (rest : Nat) : (s.deliver bytes staged rest).olq = staged := rfl
@[simp] theorem State.deliver_scratch (bytes staged : List Byte) (rest : Nat) : (s.deliver bytes staged rest).scratch = s.scratch := rfl
@[simp] theorem State.deliver_mem (bytes staged : List Byte) (rest : Nat) : (s.deliver bytes staged rest).mem = s.mem := rfl
@[simp] theorem State.deliver_dst (bytes staged : List Byte) (rest : Nat) : (s.deliver bytes staged rest).dst = s.dst ++ bytes := rfl
@[simp] theorem State.deliver_events (bytes staged : List Byte) (rest : Nat) : (s.deliver bytes staged rest).events = s.events := rfl
@[simp] theorem State.deliver_resp (bytes staged : List Byte) (rest : Nat) : (s.deliver bytes staged rest).resp = s.resp := rfl
@[simp] theorem State.deliver_pending (bytes staged : List Byte) (rest : Nat) : (s.deliver bytes staged rest).pending = s.pending := rfl
@[simp] theorem State.deliver_source (bytes staged : List Byte) (rest : Nat) : (s.deliver bytes staged rest).source = s.source := rfl
@[simp] theorem State.deliver_draws (bytes staged : List Byte) (rest : Nat) : (s.deliver bytes staged rest).draws = s.draws := rfl

/-! ### `closeRequest` -/

@[simp] theorem State.closeRequest_params : s.closeRequest.params = s.params := rfl
@[simp] theorem State.closeRequest_mode : s.closeRequest.mode = s.mode := rfl
@[simp] theorem State.closeRequest_ch : s.closeRequest.ch = s.ch := rfl
@[simp] theorem State.closeRequest_errcode : s.closeRequest.errcode = s.errcode := rfl
@[simp] theorem State.closeRequest_errcmd : s.closeRequest.errcmd = s.errcmd := rfl
@[simp] theorem State.closeRequest_fmtRate : s.closeRequest.fmtRate = s.fmtRate := rfl
@[simp] theorem State.closeRequest_fmtCh : s.closeRequest.fmtCh = s.fmtCh := rfl
@[simp] theorem State.closeRequest_fmtBits : s.closeRequest.fmtBits = s.fmtBits := rfl
@[simp] theorem State.closeRequest_remain : s.closeRequest.remain = 0 := rfl
@[simp] theorem State.closeRequest_nin : s.closeRequest.nin = s.nin := rfl
@[simp] theorem State.closeRequest_klast : s.closeRequest.klast = s.klast := rfl
@[simp] theorem State.closeRequest_eos : s.closeRequest.eos = true := rfl
@[simp] theorem State.closeRequest_ilq : s.closeRequest.ilq = s.ilq := rfl
@[simp] theorem State.closeRequest_olq : s.closeRequest.olq = s.olq := rfl
@[simp] theorem State.closeRequest_scratch : s.closeRequest.scratch = s.scratch := rfl
@[simp] theorem State.closeRequest_mem : s.closeRequest.mem = s.mem := rfl
@[simp] theorem State.closeRequest_dst : s.closeRequest.dst = s.dst := rfl
@[simp] theorem State.closeRequest_events : s.closeRequest.events = s.events := rfl
@[simp] theorem State.closeRequest_resp : s.closeRequest.resp = s.resp := rfl
@[simp] theorem State.closeRequest_pending : s.closeRequest.pending = s.pending := rfl
@[simp] theorem State.closeRequest_source : s.closeRequest.source = s.source := rfl
@[simp] theorem State.closeRequest_draws : s.closeRequest.draws = s.draws := rfl

/-! ### `useDraws` -/

@[simp] theorem State.useDraws_params (n : Nat) : (s.useDraws n).params = s.params := rfl
@[simp] theorem State.useDraws_mode (n : Nat) : (s.useDraws n).mode = s.mode := rfl
@[simp] theorem State.useDraws_ch (n : Nat) : (s.useDraws n).ch = s.ch := rfl
@[simp] theorem State.useDraws_errcode (n : Nat) : (s.useDraws n).errcode = s.errcode := rfl
@[simp] theorem State.useDraws_errcmd (n : Nat) : (s.useDraws n).errcmd = s.errcmd := rfl
@[simp] theorem State.useDraws_fmtRate (n : Nat) : (s.useDraws n).fmtRate = s.fmtRate := rfl
@[simp] theorem State.useDraws_fmtCh (n : Nat) : (s.useDraws n).fmtCh = s.fmtCh := rfl
@[simp] theorem State.useDraws_fmtBits (n : Nat) : (s.useDraws n).fmtBits = s.fmtBits := rfl
@[simp] theorem State.useDraws_remain (n : Nat) : (s.useDraws n).remain = s.remain := rfl
@[simp] theorem State.useDraws_nin (n : Nat) : (s.useDraws n).nin = s.nin := rfl
@[simp] theorem State.useDraws_klast (n : Nat) : (s.useDraws n).klast = s.klast := rfl
@[simp] theorem State.useDraws_eos (n : Nat) : (s.useDraws n).eos = s.eos := rfl
@[simp] theorem State.useDraws_ilq (n : Nat) : (s.useDraws n).ilq = s.ilq := rfl
@[simp] theorem State.useDraws_olq (n : Nat) : (s.useDraws n).olq = s.olq := rfl
@[simp] theorem State.useDraws_scratch (n : Nat) : (s.useDraws n).scratch = s.scratch := rfl
@[simp] theorem State.useDraws_mem (n : Nat) : (s.useDraws n).mem = s.mem := rfl
@[simp] theorem State.useDraws_dst (n : Nat) : (s.useDraws n).dst = s.dst := rfl
@[simp] theorem State.useDraws_events (n : Nat) : (s.useDraws n).events = s.events := rfl
@[simp] theorem State.useDraws_resp (n : Nat) : (s.useDraws n).resp = s.resp := rfl
@[simp] theorem State.useDraws_pending (n : Nat) : (s.useDraws n).pending = s.pending := rfl
@[simp] theorem State.useDraws_source (n : Nat) : (s.useDraws n).source = s.source := rfl
@[simp] theorem State.useDraws_draws (n : Nat) : (s.useDraws n).draws = s.draws + n := rfl

/-! ### `resetBlock` -/

@[simp] theorem State.resetBlock_params : s.resetBlock.params = s.params := rfl
@[simp] theorem State.resetBlock_mode : s.resetBlock.mode = .unconf := rfl
@[simp] theorem State.resetBlock_ch : s.resetBlock.ch = 0 := rfl
@[simp] theorem State.resetBlock_errcode : s.resetBlock.errcode = .none := rfl
@[simp] theorem State.resetBlock_errcmd : s.resetBlock.errcmd = 0 := rfl
@[simp] theorem State.resetBlock_fmtRate : s.resetBlock.fmtRate = 0 := rfl
@[simp] theorem State.resetBlock_fmtCh : s.resetBlock.fmtCh = 0 := rfl
@[simp] theorem State.resetBlock_fmtBits : s.resetBlock.fmtBits = 0 := rfl
@[simp] theorem State.resetBlock_remain : s.resetBlock.remain = 0 := rfl
@[simp] theorem State.resetBlock_nin : s.resetBlock.nin = 0 := rfl
@[simp] theorem State.resetBlock_klast : s.resetBlock.klast = 0 := rfl
@[simp] theorem State.resetBlock_eos : s.resetBlock.eos = false := rfl
@[simp] theorem State.resetBlock_ilq : s.resetBlock.ilq = [] := rfl
@[simp] theorem State.resetBlock_olq : s.resetBlock.olq = [] := rfl
@[simp] theorem State.resetBlock_scratch : s.resetBlock.scratch = [] := rfl
@[simp] theorem State.resetBlock_mem : s.resetBlock.mem = [] := rfl
@[simp] theorem State.resetBlock_dst : s.resetBlock.dst = s.dst := rfl
@[simp] theorem State.resetBlock_events : s.resetBlock.events = s.events := rfl
@[simp] theorem State.resetBlock_resp : s.resetBlock.resp = s.resp := rfl
@[simp] theorem State.resetBlock_pending : s.resetBlock.pending = s.pending := rfl
@[simp] theorem State.resetBlock_source : s.resetBlock.source = s.source := rfl
@[simp] theorem State.resetBlock_draws : s.resetBlock.draws = s.draws := rfl

/-! ### `pullWith` -/

@[simp] theorem State.pullWith_params (B : List Byte) : (s.pullWith B).params = s.params := rfl
@[simp] theorem State.pullWith_mode (B : List Byte) : (s.pullWith B).mode = s.mode := rfl
@[simp] theorem State.pullWith_ch (B : List Byte) : (s.pullWith B).ch = s.ch := rfl
@[simp] theorem State.pullWith_errcode (B : List Byte) : (s.pullWith B).errcode = s.errcode := rfl
@[simp] theorem State.pullWith_errcmd (B : List Byte) : (s.pullWith B).errcmd = s.errcmd := rfl
@[simp] theorem State.pullWith_fmtRate (B : List Byte) : (s.pullWith B).fmtRate = s.fmtRate := rfl
@[simp] theorem State.pullWith_fmtCh (B : List Byte) : (s.pullWith B).fmtCh = s.fmtCh := rfl
@[simp] theorem State.pullWith_fmtBits (B : List Byte) : (s.pullWith B).fmtBits = s.fmtBits := rfl
@[simp] theorem State.pullWith_remain (B : List Byte) : (s.pullWith B).remain = s.remain := rfl
@[simp] theorem State.pullWith_nin (B : List Byte) : (s.pullWith B).nin = s.pullFrames B := rfl
@[simp] theorem State.pullWith_klast (B : List Byte) : (s.pullWith B).klast = BitVec.ofNat 24 B.length := rfl
@[simp] theorem State.pullWith_eos (B : List Byte) : (s.pullWith B).eos = s.eos := rfl
@[simp] theorem State.pullWith_ilq (B : List Byte) : (s.pullWith B).ilq = ((s.pullScratch B).drop (s.pullFrames B * s.bpf)).take ((s.ilq.length + B.length) % s.bpf) := rfl
@[simp] theorem State.pullWith_olq (B : List Byte) : (s.pullWith B).olq = s.olq := rfl
@[simp] theorem State.pullWith_scratch (B : List Byte) : (s.pullWith B).scratch = s.pullScratch B := rfl
@[simp] theorem State.pullWith_mem (B : List Byte) : (s.pullWith B).mem = decodeFrames s.params s.ch.toNat (s.pullFrames B) (s.pullScratch B) s.mem := rfl
@[simp] theorem State.pullWith_dst (B : List Byte) : (s.pullWith B).dst = s.dst := rfl
@[simp] theorem State.pullWith_events (B : List Byte) : (s.pullWith B).events = s.events ++ (if 0 < B.length then [.src] else []) := rfl
@[simp] theorem State.pullWith_resp (B : List Byte) : (s.pullWith B).resp = s.resp := rfl
@[simp] theorem State.pullWith_pending (B : List Byte) : (s.pullWith B).pending = s.pending := rfl
@[simp] theorem State.pullWith_source (B : List Byte) : (s.pullWith B).source = s.source := rfl
@[simp] theorem State.pullWith_draws (B : List Byte) : (s.pullWith B).draws = s.draws := rfl

/-! ### `resetWith` -/

variable (p : Params)

@[simp] theorem State.resetWith_params : (State.resetWith p).params = p := rfl
@[simp] theorem State.resetWith_mode : (State.resetWith p).mode = .unconf := rfl
@[simp] theorem State.resetWith_ch : (State.resetWith p).ch = 0 := rfl
@[simp] theorem State.resetWith_errcode : (State.resetWith p).errcode = .none := rfl
@[simp] theorem State.resetWith_errcmd : (State.resetWith p).errcmd = 0 := rfl
@[simp] theorem State.resetWith_fmtRate : (State.resetWith p).fmtRate = 0 := rfl
@[simp] theorem State.resetWith_fmtCh : (State.resetWith p).fmtCh = 0 := rfl
@[simp] theorem State.resetWith_fmtBits : (State.resetWith p).fmtBits = 0 := rfl
@[simp] theorem State.resetWith_remain : (State.resetWith p).remain = 0 := rfl
@[simp] theorem State.resetWith_nin : (State.resetWith p).nin = 0 := rfl
@[simp] theorem State.resetWith_klast : (State.resetWith p).klast = 0 := rfl
@[simp] theorem State.resetWith_eos : (State.resetWith p).eos = false := rfl
@[simp] theorem State.resetWith_ilq : (State.resetWith p).ilq = [] := rfl
@[simp] theorem State.resetWith_olq : (State.resetWith p).olq = [] := rfl
@[simp] theorem State.resetWith_scratch : (State.resetWith p).scratch = [] := rfl
@[simp] theorem State.resetWith_mem : (State.resetWith p).mem = [] := rfl
@[simp] theorem State.resetWith_dst : (State.resetWith p).dst = [] := rfl
@[simp] theorem State.resetWith_events : (State.resetWith p).events = [] := rfl
@[simp] theorem State.resetWith_resp : (State.resetWith p).resp = [] := rfl
@[simp] theorem State.resetWith_pending : (State.resetWith p).pending = [] := rfl
@[simp] theorem State.resetWith_source : (State.resetWith p).source = [] := rfl
@[simp] theorem State.resetWith_draws : (State.resetWith p).draws = 0 := rfl

/-! ### `srcAdvance`: only the source and the counter of free values change -/

@[simp] theorem State.srcAdvance_params (req : Nat) : (s.srcAdvance req).params = s.params := by
  unfold State.srcAdvance; split <;> [rfl; (split <;> rfl)]
@[simp] theorem State.srcAdvance_mode (req : Nat) : (s.srcAdvance req).mode = s.mode := by
  unfold State.srcAdvance; split <;> [rfl; (split <;> rfl)]
@[simp] theorem State.srcAdvance_ch (req : Nat) : (s.srcAdvance req).ch = s.ch := by
  unfold State.srcAdvance; split <;> [rfl; (split <;> rfl)]
@[simp] theorem State.srcAdvance_errcode (req : Nat) : (s.srcAdvance req).errcode = s.errcode := by
  unfold State.srcAdvance; split <;> [rfl; (split <;> rfl)]
@[simp] theorem State.srcAdvance_errcmd (req : Nat) : (s.srcAdvance req).errcmd = s.errcmd := by
  unfold State.srcAdvance; split <;> [rfl; (split <;> rfl)]
@[simp] theorem State.srcAdvance_fmtRate (req : Nat) : (s.srcAdvance req).fmtRate = s.fmtRate := by
  unfold State.srcAdvance; split <;> [rfl; (split <;> rfl)]
@[simp] theorem State.srcAdvance_fmtCh (req : Nat) : (s.srcAdvance req).fmtCh = s.fmtCh := by
  unfold State.srcAdvance; split <;> [rfl; (split <;> rfl)]
@[simp] theorem State.srcAdvance_fmtBits (req : Nat) : (s.srcAdvance req).fmtBits = s.fmtBits := by
  unfold State.srcAdvance; split <;> [rfl; (split <;> rfl)]
@[simp] theorem State.srcAdvance_remain (req : Nat) : (s.srcAdvance req).remain = s.remain := by
  unfold State.srcAdvance; split <;> [rfl; (split <;> rfl)]
@[simp] theorem State.srcAdvance_nin (req : Nat) : (s.srcAdvance req).nin = s.nin := by
  unfold State.srcAdvance; split <;> [rfl; (split <;> rfl)]
@[simp] theorem State.srcAdvance_klast (req : Nat) : (s.srcAdvance req).klast = s.klast := by
  unfold State.srcAdvance; split <;> [rfl; (split <;> rfl)]
@[simp] theorem State.srcAdvance_eos (req : Nat) : (s.srcAdvance req).eos = s.eos := by
  unfold State.srcAdvance; split <;> [rfl; (split <;> rfl)]
@[simp] theorem State.srcAdvance_ilq (req : Nat) : (s.srcAdvance req).ilq = s.ilq := by
  unfold State.srcAdvance; split <;> [rfl; (split <;> rfl)]
@[simp] theorem State.srcAdvance_olq (req : Nat) : (s.srcAdvance req).olq = s.olq := by
  unfold State.srcAdvance; split <;> [rfl; (split <;> rfl)]
@[simp] theorem State.srcAdvance_scratch (req : Nat) : (s.srcAdvance req).scratch = s.scratch := by
  unfold State.srcAdvance; split <;> [rfl; (split <;> rfl)]
@[simp] theorem State.srcAdvance_mem (req : Nat) : (s.srcAdvance req).mem = s.mem := by
  unfold State.srcAdvance; split <;> [rfl; (split <;> rfl)]
@[simp] theorem State.srcAdvance_dst (req : Nat) : (s.srcAdvance req).dst = s.dst := by
  unfold State.srcAdvance; split <;> [rfl; (split <;> rfl)]
@[simp] theorem State.srcAdvance_events (req : Nat) : (s.srcAdvance req).events = s.events := by
  unfold State.srcAdvance; split <;> [rfl; (split <;> rfl)]
@[simp] theorem State.srcAdvance_resp (req : Nat) : (s.srcAdvance req).resp = s.resp := by
  unfold State.srcAdvance; split <;> [rfl; (split <;> rfl)]
@[simp] theorem State.srcAdvance_pending (req : Nat) : (s.srcAdvance req).pending = s.pending := by
  unfold State.srcAdvance; split <;> [rfl; (split <;> rfl)]

end Sys2Proof.Machine
end

