-- ==== Sys2Proof/Laws/Exec.lean ====
section
/-! SUPPORT. What each shared operation and each command can do when it answers a next state. -/

namespace Sys2Proof.Machine

variable {s t : State}

/-! ### Mode checks, ports -/

theorem readyOnly_next {i : Instr} {run : Host.Outcome State Fault Refusal} (h : readyOnly i s run = .next t) :
    (s.mode = .ready ∧ run = .next t) ∨ (s.mode = .unconf ∧ t = s.takeFault .badMode (encode i)) ∨
      (s.mode = .failed ∧ t = s) := by
  unfold readyOnly at h
  split at h
  · exact .inl ⟨‹_›, h⟩
  · exact .inr (.inl ⟨‹_›, (Host.Outcome.next.inj h).symm⟩)
  · exact .inr (.inr ⟨‹_›, (Host.Outcome.next.inj h).symm⟩)

theorem unconfOnly_next {i : Instr} {run : Host.Outcome State Fault Refusal} (h : unconfOnly i s run = .next t) :
    (s.mode = .unconf ∧ run = .next t) ∨ (s.mode = .ready ∧ t = s.takeFault .badMode (encode i)) ∨
      (s.mode = .failed ∧ t = s) := by
  unfold unconfOnly at h
  split at h
  · exact .inl ⟨‹_›, h⟩
  · exact .inr (.inl ⟨‹_›, (Host.Outcome.next.inj h).symm⟩)
  · exact .inr (.inr ⟨‹_›, (Host.Outcome.next.inj h).symm⟩)

/-- The source keeps its contract: `|B| <= req` (R66). -/
theorem srcAnswer_length {req : Nat} {B : List Byte} (h : s.srcAnswer req = some B) : B.length ≤ req := by
  unfold State.srcAnswer at h
  split at h
  · cases h; simp
  · split at h
    · cases h; simp
    · cases h; simp
    · cases h

/-- `SrcRead(0)` returns the empty sequence (R66). -/
@[simp] theorem srcAnswer_zero : s.srcAnswer 0 = some [] := rfl

theorem srcAnswer_bytes {req : Nat} {b : List Byte} {rest : List SrcAnswer} (h : s.source = .bytes b :: rest) :
    s.srcAnswer req = some (b.take req) := by
  unfold State.srcAnswer
  split
  · subst req; simp
  · simp [h]

/-! ### The commands -/

theorem execInit_next (h : execInit s = .next t) :
    (s.mode = .unconf ∧ s.fmtBits.toNat ≠ 16 ∧ t = s.takeFault .cfgBits (encode .init)) ∨
    (s.mode = .unconf ∧ s.fmtBits.toNat = 16 ∧ (s.fmtCh.toNat < 1 ∨ s.params.chmax < s.fmtCh.toNat) ∧
      t = s.takeFault .cfgCh (encode .init)) ∨
    (s.mode = .unconf ∧ s.fmtBits.toNat = 16 ∧ 1 ≤ s.fmtCh.toNat ∧ s.fmtCh.toNat ≤ s.params.chmax ∧
      t = { s with ch := s.fmtCh.extractLsb' 0 8, mode := .ready }) ∨
    (s.mode = .ready ∧ t = s.takeFault .badMode (encode .init)) ∨ (s.mode = .failed ∧ t = s) := by
  rcases unconfOnly_next h with ⟨hm, h⟩ | h | h
  · split at h
    · exact .inl ⟨hm, ‹_›, (Host.Outcome.next.inj h).symm⟩
    · split at h
      · exact .inr (.inl ⟨hm, by omega, ‹_›, (Host.Outcome.next.inj h).symm⟩)
      · exact .inr (.inr (.inl ⟨hm, by omega, by omega, by omega, (Host.Outcome.next.inj h).symm⟩))
  · exact .inr (.inr (.inr (.inl h)))
  · exact .inr (.inr (.inr (.inr h)))

theorem execPull_next {req : Imm24} (h : execPull req s = .next t) :
    (s.mode = .ready ∧ s.scap < req.toNat + s.ilq.length ∧ t = s.takeFault .operand (encode (.pull req))) ∨
    (s.mode = .ready ∧ req.toNat + s.ilq.length ≤ s.scap ∧
      ∃ B, s.srcAnswer req.toNat = some B ∧ t = (s.srcAdvance req.toNat).pullWith B) ∨
    (s.mode = .unconf ∧ t = s.takeFault .badMode (encode (.pull req))) ∨ (s.mode = .failed ∧ t = s) := by
  rcases readyOnly_next h with ⟨hm, h⟩ | h | h
  · split at h
    · exact .inl ⟨hm, ‹_›, (Host.Outcome.next.inj h).symm⟩
    · split at h
      · exact .inr (.inl ⟨hm, Nat.le_of_not_lt ‹_›, _, ‹_›, (Host.Outcome.next.inj h).symm⟩)
      · cases h
  · exact .inr (.inr (.inl h))
  · exact .inr (.inr (.inr h))

theorem execRdreq_next {count : Imm24} (h : execRdreq count s = .next t) :
    (s.mode = .ready ∧ s.remain ≠ 0 ∧ t = s.takeFault .order (encode (.rdreq count))) ∨
    (s.mode = .ready ∧ s.remain = 0 ∧
      t = s.deliver (s.olq.take (min s.olq.length count.toNat)) (s.olq.drop (min s.olq.length count.toNat))
        (count.toNat - min s.olq.length count.toNat)) ∨
    (s.mode = .unconf ∧ t = s.takeFault .badMode (encode (.rdreq count))) ∨ (s.mode = .failed ∧ t = s) := by
  rcases readyOnly_next h with ⟨hm, h⟩ | h | h
  · split at h
    · exact .inl ⟨hm, ‹_›, (Host.Outcome.next.inj h).symm⟩
    · exact .inr (.inl ⟨hm, by_contra ‹_›, (Host.Outcome.next.inj h).symm⟩)
  · exact .inr (.inr (.inl h))
  · exact .inr (.inr (.inr h))

theorem execEncode_next {m : Imm24} (h : execEncode m s = .next t) :
    (s.mode = .ready ∧ s.params.blk < m.toNat ∧ t = s.takeFault .operand (encode (.encode m))) ∨
    (s.mode = .ready ∧ m.toNat ≤ s.params.blk ∧ s.olq.length ≠ 0 ∧ t = s.takeFault .order (encode (.encode m))) ∨
    (s.mode = .ready ∧ m.toNat ≤ s.params.blk ∧ s.olq.length = 0 ∧
      t = (s.deliver ((s.encFrames m.toNat).take (min s.remain.toNat (s.encFrames m.toNat).length))
        ((s.encFrames m.toNat).drop (min s.remain.toNat (s.encFrames m.toNat).length))
        (s.remain.toNat - min s.remain.toNat (s.encFrames m.toNat).length)).useDraws (m.toNat * s.ch.toNat)) ∨
    (s.mode = .unconf ∧ t = s.takeFault .badMode (encode (.encode m))) ∨ (s.mode = .failed ∧ t = s) := by
  rcases readyOnly_next h with ⟨hm, h⟩ | h | h
  · split at h
    · exact .inl ⟨hm, ‹_›, (Host.Outcome.next.inj h).symm⟩
    · split at h
      · exact .inr (.inl ⟨hm, Nat.le_of_not_lt ‹_›, ‹_›, (Host.Outcome.next.inj h).symm⟩)
      · exact .inr (.inr (.inl ⟨hm, Nat.le_of_not_lt ‹_›, by omega, (Host.Outcome.next.inj h).symm⟩))
  · exact .inr (.inr (.inr (.inl h)))
  · exact .inr (.inr (.inr (.inr h)))

theorem execPad_next (h : execPad s = .next t) :
    (s.mode = .ready ∧
      t = (s.dstWrite (List.replicate s.remain.toNat 0)).closeRequest.pulse .eos) ∨
    (s.mode = .unconf ∧ t = s.takeFault .badMode (encode .pad)) ∨ (s.mode = .failed ∧ t = s) := by
  rcases readyOnly_next h with ⟨hm, h⟩ | h | h
  · exact .inl ⟨hm, (Host.Outcome.next.inj h).symm⟩
  · exact .inr (.inl h)
  · exact .inr (.inr h)

/-! ### Lengths -/

theorem length_lanes (n ch : Nat) : (lanes n ch).length = n * ch := by
  simp [lanes, List.length_flatMap]

/-- `EncFrames(m)` is `m * BPF` bytes long (R135). -/
theorem length_encFrames (m : Nat) : (s.encFrames m).length = m * s.bpf := by
  unfold State.encFrames
  rw [List.length_flatMap]
  have : ((lanes m s.ch.toNat).map fun ic : Nat × Nat =>
      [(enc16 (s.outSample ic.1 ic.2)).1, (enc16 (s.outSample ic.1 ic.2)).2].length) =
      List.replicate (m * s.ch.toNat) 2 := by
    rw [← length_lanes]; simp
  rw [this, List.sum_replicate, State.bpf]
  simp; ring

end Sys2Proof.Machine
end

