-- ==== Sys2Proof/Laws/PerInstr.lean ====
section
/-! SUPPORT. One statement about every instruction as syntax: where the encoder puts its two fields. -/

namespace Sys2Proof.Laws.Fields

/-- The command word of `i` has the opcode of R83 in `word[31:24]` and the operand, or zero, in `word[23:0]` (R81). -/
def Statement (i : Instr) : Prop := opField (encode i) = opcode i ∧ immField (encode i) = lowField i

/-- The two fields of an opcode above an immediate. -/
theorem fields_append (op : Byte) (imm : Imm24) : opField (op ++ imm) = op ∧ immField (op ++ imm) = imm := by
  have key : ∀ i, (op ++ imm : BitVec (8 + 24)).getLsbD i = if i < 24 then imm.getLsbD i else op.getLsbD (i - 24) :=
    fun i => by rw [BitVec.getLsbD_append]
  constructor
  · ext i hi
    rw [opField, BitVec.getElem_extractLsb', key, if_neg (by omega), Nat.add_sub_cancel_left, BitVec.getLsbD_eq_getElem hi]
  · ext i hi
    rw [immField, BitVec.getElem_extractLsb', Nat.zero_add, key, if_pos hi, BitVec.getLsbD_eq_getElem hi]

theorem init : Statement .init := fields_append _ _
theorem reset : Statement .reset := fields_append _ _
theorem pull (req : Imm24) : Statement (.pull req) := fields_append _ _
theorem rdreq (count : Imm24) : Statement (.rdreq count) := fields_append _ _
theorem encode (m : Imm24) : Statement (.encode m) := fields_append _ _
theorem pad : Statement .pad := fields_append _ _

end Sys2Proof.Laws.Fields
end

