-- ==== Sys2Proof/Laws/Step.lean ====
section
/-! SUPPORT. What one step can do, once for all statements about every step. -/

namespace Sys2Proof.Machine

variable {s t : State}

/-- What an event does to the block, `s` being the state with the event taken off `pending`. -/
inductive Served (s : State) : HostEvent → State → Prop where
  /-- `rst`, alone or with a transaction (R220). -/
  | reset (together : Option BusTxn) : Served s (.rst together) s.resetBlock
  /-- A read, or a rejected access, never a word at CMD: a response, and perhaps a free value used up (R160, R162). -/
  | answered (b : BusTxn) (r : BusResp) (d : Nat) : (∀ w, b ≠ .write 32 Reg.cmd.addr w) → s.draws ≤ d →
      Served s (.bus b) { s.respond r with draws := d }
  /-- A format register stored in UNCONF (R29 to R31). -/
  | format (addr data rate ch bits : Word) : addr ≠ Reg.cmd.addr → s.mode = .unconf →
      Served s (.bus (.write 32 addr data)) ({ s with fmtRate := rate, fmtCh := ch, fmtBits := bits }.respond .ok)
  /-- A word of OUTBLK written (R161). -/
  | window (addr w : Word) (c i : Nat) : addr ≠ Reg.cmd.addr → c < s.params.chmax → i < s.params.blk →
      Served s (.bus (.write 32 addr w)) ({ s with mem := s.mem.writeWord (outAddr s.params c i) w }.respond .ok)
  /-- A word written to CMD executed (R84). -/
  | command (w : Word) (u : State) : command w s = .next u →
      Served s (.bus (.write 32 0x00000000 w)) (u.respond .ok)

theorem regionOf_eq (addr : Word) : regionOf addr = addr.toNat / 2 ^ 28 := by
  have := addr.isLt
  simp only [regionOf, BitVec.extractLsb'_toNat, Nat.shiftRight_eq_div_pow]
  omega

theorem offsetOf_eq (addr : Word) : offsetOf addr = addr.toNat % 2 ^ 28 := by
  simp only [offsetOf, BitVec.extractLsb'_toNat, Nat.shiftRight_zero]

theorem lowBits_eq (addr : Word) : (addr.extractLsb' 0 2).toNat = addr.toNat % 4 := by
  simp only [BitVec.extractLsb'_toNat, Nat.shiftRight_zero]

/-- The register found at an offset is the one of that offset. -/
theorem atOffset_offset {off : Nat} {r : Reg} (h : Reg.atOffset off = some r) : r.offset = off := by
  have := List.find?_some h
  simpa using this

/-- A bus address selects a register only at that register's own address. -/
theorem target_reg {p : Params} {addr : Word} {r : Reg} (h : target p addr = .reg r) : addr = r.addr := by
  unfold target at h
  split at h
  · cases h
  split at h
  · rename_i hreg
    split at h
    · rename_i r' hr
      cases h
      have ho := atOffset_offset hr
      rw [offsetOf_eq] at ho
      rw [regionOf_eq] at hreg
      apply BitVec.eq_of_toNat_eq
      have := addr.isLt
      simp only [Reg.addr, BitVec.toNat_ofNat]
      omega
    · cases h
  split at h
  · cases h
  split at h <;> cases h

/-- The address of a register selects it. -/
theorem target_addr (p : Params) (r : Reg) : target p r.addr = .reg r := by
  cases r <;> simp [target, regionOf, offsetOf, Reg.addr, Reg.offset, Reg.atOffset, Reg.all]

/-- A bus address selects an OUTBLK word only inside the window. -/
theorem target_outblk {p : Params} {addr : Word} {c i : Nat} (h : target p addr = .outblk c i) :
    c < p.chmax ∧ i < p.blk := by
  have hb := p.blk_pos
  unfold target at h
  split at h
  · cases h
  split at h
  · split at h <;> cases h
  split at h
  · cases h
  split at h
  · rename_i hw
    obtain ⟨_, hw⟩ := hw
    simp only [Target.outblk.injEq] at h
    obtain ⟨rfl, rfl⟩ := h
    refine ⟨?_, Nat.mod_lt _ hb⟩
    apply Nat.div_lt_of_lt_mul
    unfold windowBytes at hw
    have : p.blk * p.chmax = p.chmax * p.blk := Nat.mul_comm _ _
    rw [Nat.mul_assoc] at hw
    omega
  · cases h

/-- An address that does not select CMD is not CMD's. -/
theorem ne_cmd_of_target {p : Params} {addr : Word} (h : target p addr ≠ .reg .cmd) : addr ≠ Reg.cmd.addr :=
  fun ha => h (ha ▸ target_addr p .cmd)

theorem served_windowRead (width : Nat) (addr : Word) (a : Nat) (s : State) :
    Served s (.bus (.read width addr)) (windowRead a s) := by
  unfold windowRead
  split
  · exact .answered _ _ s.draws (by simp) le_rfl
  · exact .answered _ _ (s.draws + 1) (by simp) (Nat.le_succ _)

theorem served_respond {b : BusTxn} (h : ∀ w, b ≠ .write 32 Reg.cmd.addr w) (r : BusResp) (s : State) :
    Served s (.bus b) (s.respond r) :=
  .answered b r s.draws h le_rfl

/-- A rejected write at an address other than CMD's. -/
theorem served_reject {width : Nat} {addr data : Word} (h : addr ≠ Reg.cmd.addr) (r : BusResp) (s : State) :
    Served s (.bus (.write width addr data)) (s.respond r) :=
  served_respond (fun _ hb => h (BusTxn.write.inj hb).2.1) r s

theorem served_busRead (width : Nat) (addr : Word) (s : State) :
    Served s (.bus (.read width addr)) (busRead width addr s) := by
  have rejected (r : BusResp) : Served s (.bus (.read width addr)) (s.respond r) := served_respond (by simp) r s
  unfold busRead
  split
  · exact rejected _
  · split
    · split <;> exact rejected _
    · exact served_windowRead _ _ _ s
    · exact served_windowRead _ _ _ s
    · exact rejected _

theorem served_formatWrite {stored : State} {addr : Word} (ha : addr ≠ Reg.cmd.addr) (data : Word) {rate ch bits : Word}
    (h : stored = { s with fmtRate := rate, fmtCh := ch, fmtBits := bits }) :
    Served s (.bus (.write 32 addr data)) (formatWrite stored s) := by
  unfold formatWrite
  split
  · subst h; exact .format _ _ _ _ _ ha ‹_›
  · exact served_reject ha _ s
  · exact served_reject ha _ s

theorem served_regWrite {r : Reg} {data : Word} (h : regWrite r data s = .next t) :
    Served s (.bus (.write 32 r.addr data)) t := by
  cases r
  case cmd =>
    simp only [regWrite, thenRespond] at h
    split at h
    · cases h; exact .command data _ ‹_›
    · cases h
    · cases h
  case fmtRate =>
    cases h; exact served_formatWrite (by decide) _ (rate := data) (ch := s.fmtCh) (bits := s.fmtBits) rfl
  case fmtCh =>
    cases h; exact served_formatWrite (by decide) _ (rate := s.fmtRate) (ch := data) (bits := s.fmtBits) rfl
  case fmtBits =>
    cases h; exact served_formatWrite (by decide) _ (rate := s.fmtRate) (ch := s.fmtCh) (bits := data) rfl
  all_goals (cases h; exact served_reject (by decide) _ s)

theorem served_busWrite {width : Nat} {addr data : Word} (h : busWrite width addr data s = .next t) :
    Served s (.bus (.write width addr data)) t := by
  unfold busWrite at h
  split at h
  · rename_i hw
    cases h; exact served_respond (fun _ hb => hw (BusTxn.write.inj hb).1) _ s
  · rename_i hw
    obtain rfl : width = 32 := not_not.mp hw
    split at h
    · rename_i r heq
      rw [target_reg heq]
      exact served_regWrite h
    · rename_i c i heq
      cases h
      exact .window addr data c i (ne_cmd_of_target (p := s.params) (by simp [heq])) (target_outblk heq).1 (target_outblk heq).2
    · rename_i heq
      cases h; exact served_reject (ne_cmd_of_target (p := s.params) (by simp [heq])) _ s
    · rename_i heq
      cases h; exact served_reject (ne_cmd_of_target (p := s.params) (by simp [heq])) _ s

theorem serve_next {e : HostEvent} (h : serve e s = .next t) : Served s e t := by
  cases e with
  | bus b =>
    cases b with
    | read width addr => cases h; exact served_busRead width addr s
    | write width addr data => exact served_busWrite h
  | rst together => cases h; exact .reset together

/-- One step: nothing is pending and nothing changes, or the first event is served. -/
theorem step_next (h : step s = .next t) :
    (s.pending = [] ∧ t = s) ∨
      ∃ e rest, s.pending = e :: rest ∧ serve e { s with pending := rest } = .next t ∧
        Served { s with pending := rest } e t := by
  unfold step stepBlock at h
  split at h
  · exact .inl ⟨‹_›, (Host.Outcome.next.inj h).symm⟩
  · exact .inr ⟨_, _, ‹_›, h, serve_next h⟩

/-- What a word written to CMD does when it completes (R84). -/
theorem command_next {w : Word} (h : command w s = .next t) :
    (∃ i, decode w = .cmd i ∧ exec i s = .next t) ∨
    (∃ why, decode w = .illegal why ∧ s.mode ≠ .failed ∧ t = s.takeFault .illegal w) ∨
    (∃ why, decode w = .illegal why ∧ s.mode = .failed ∧ t = s) := by
  unfold command at h
  split at h
  · exact .inl ⟨_, ‹_›, h⟩
  · split at h
    · exact .inr (.inr ⟨_, ‹_›, ‹_›, (Host.Outcome.next.inj h).symm⟩)
    · exact .inr (.inl ⟨_, ‹_›, by simp_all, (Host.Outcome.next.inj h).symm⟩)
    · exact .inr (.inl ⟨_, ‹_›, by simp_all, (Host.Outcome.next.inj h).symm⟩)

end Sys2Proof.Machine
end

