-- ==== Sys2Proof/Laws/Series.lean ====
section
/-! SUPPORT. What one event of a series of served events does, for the statements over such series (R118, R152). -/

namespace Sys2Proof.Machine

variable {s t u : State} {e : HostEvent} {rest : List HostEvent}

/-- What the block has besides its memories, format, error registers, mode and the model's own fields is the same. -/
structure SameStreams (s t : State) : Prop where
  params : t.params = s.params
  ch : t.ch = s.ch
  ilq : t.ilq = s.ilq
  olq : t.olq = s.olq
  remain : t.remain = s.remain
  dst : t.dst = s.dst
  nin : t.nin = s.nin
  klast : t.klast = s.klast
  eos : t.eos = s.eos
  events : t.events = s.events
  source : t.source = s.source

theorem executed_cmd {w : Word} {i : Instr} (hd : decode w = .cmd i) (hm : t.mode = .ready) :
    executed (.bus (.write 32 Reg.cmd.addr w)) t = some i := by
  simp [executed, hd, hm]

theorem executed_none_of_mode (h : t.mode ≠ .ready) : executed e t = none := by
  unfold executed
  split
  · rfl
  · rfl
  · exact if_neg fun hc => h hc.2.2

theorem executed_none_of_txn {b : BusTxn} (h : ∀ w, b ≠ .write 32 Reg.cmd.addr w) : executed (.bus b) t = none := by
  cases b with
  | read width addr => rfl
  | write width addr data =>
    refine if_neg ?_
    rintro ⟨rfl, rfl, -⟩
    exact h data rfl

theorem encode_reset_isReset {w : Word} (h : w = encode .reset) :
    (HostEvent.bus (.write 32 Reg.cmd.addr w)).isReset = true := by
  subst h; rfl

/-- The command decoder inverted on RESET (R83). -/
theorem decode_reset {w : Word} (h : decode w = .cmd .reset) : w = encode .reset := by
  unfold decode decodeZ at h
  repeat' split at h
  all_goals cases h
  rename_i hop himm
  have hw : w = opField w ++ immField w := by
    apply BitVec.eq_of_getLsbD_eq
    intro i hi
    rw [show (opField w ++ immField w : BitVec 32).getLsbD i = if i < 24 then (immField w).getLsbD i
      else (opField w).getLsbD (i - 24) from BitVec.getLsbD_append]
    unfold opField immField
    split
    · simp; omega
    · simp [show i - 24 < 8 by omega, show 24 + (i - 24) = i by omega]
  rw [hw, hop, himm]; rfl

/-- A fault, a discarded word and every event but a command that executes leave the streams alone. -/
theorem exec_not_ready {i : Instr} (hi : i ≠ .reset) (h : exec i s = .next t) (hm : t.mode ≠ .ready) :
    SameStreams s t := by
  cases i with
  | reset => exact absurd rfl hi
  | init =>
    rcases execInit_next h with ⟨_, _, rfl⟩ | ⟨_, _, _, rfl⟩ | ⟨_, _, _, _, rfl⟩ | ⟨_, rfl⟩ | ⟨_, rfl⟩ <;>
      first | exact absurd rfl hm | (constructor <;> rfl)
  | pull req =>
    rcases execPull_next h with ⟨_, _, rfl⟩ | ⟨hr, _, B, _, rfl⟩ | ⟨_, rfl⟩ | ⟨_, rfl⟩ <;>
      first | (constructor <;> rfl) | (simp [hr] at hm)
  | rdreq count =>
    rcases execRdreq_next h with ⟨_, _, rfl⟩ | ⟨hr, _, rfl⟩ | ⟨_, rfl⟩ | ⟨_, rfl⟩ <;>
      first | (constructor <;> rfl) | (simp [hr] at hm)
  | encode m =>
    rcases execEncode_next h with ⟨_, _, rfl⟩ | ⟨_, _, _, rfl⟩ | ⟨hr, _, _, rfl⟩ | ⟨_, rfl⟩ | ⟨_, rfl⟩ <;>
      first | (constructor <;> rfl) | (simp [hr] at hm)
  | pad =>
    rcases execPad_next h with ⟨hr, rfl⟩ | ⟨_, rfl⟩ | ⟨_, rfl⟩ <;>
      first | (constructor <;> rfl) | (simp [hr] at hm)

/-- One step that serves an event other than a reset: a command executes and the block is READY after it, or none does
and the streams are as before. -/
theorem step_executed (hp : s.pending = e :: rest) (he : e.isReset = false) (h : step s = .next t) :
    (∃ i v, i ≠ .reset ∧ executed e t = some i ∧ exec i { s with pending := rest } = .next v ∧ v.mode = .ready ∧
        t = v.respond .ok) ∨
      (executed e t = none ∧ SameStreams s t) := by
  rcases step_next h with ⟨h0, -⟩ | ⟨e', rest', hp', -, hs⟩
  · rw [hp] at h0; cases h0
  rw [hp] at hp'
  cases hp'
  have same : ∀ v : State, SameStreams { s with pending := rest } v → SameStreams s (v.respond .ok) :=
    fun v hv => ⟨hv.1, hv.2, hv.3, hv.4, hv.5, hv.6, hv.7, hv.8, hv.9, hv.10, hv.11⟩
  cases hs with
  | reset o => cases he
  | answered b r d hb hd => exact .inr ⟨executed_none_of_txn hb, by constructor <;> rfl⟩
  | format addr d r c b ha hm =>
    exact .inr ⟨executed_none_of_txn (by simp [ha]), by constructor <;> rfl⟩
  | window addr w c i ha hc hi =>
    exact .inr ⟨executed_none_of_txn (by simp [ha]), by constructor <;> rfl⟩
  | command w v hv =>
    rcases command_next hv with ⟨i, hd, hx⟩ | ⟨why, hd, hm, rfl⟩ | ⟨why, hd, hm, rfl⟩
    · have hi : i ≠ .reset := by
        rintro rfl
        rw [show (0x00000000 : Word) = Reg.cmd.addr from rfl, encode_reset_isReset (decode_reset hd)] at he
        cases he
      by_cases hr : v.mode = .ready
      · exact .inl ⟨i, v, hi, executed_cmd hd hr, hx, hr, rfl⟩
      · exact .inr ⟨executed_none_of_mode hr, same v (exec_not_ready hi hx hr)⟩
    · exact .inr ⟨executed_none_of_mode (by simp), same _ (by constructor <;> rfl)⟩
    · exact .inr ⟨executed_none_of_mode (by rw [State.respond_mode, hm]; decide), same _ (by constructor <;> rfl)⟩

/-- A series taken apart at its first step. -/
theorem servedSeries_succ {α : Type} {collect : HostEvent → State → State → List α} {n : Nat} {L : List α}
    (h : servedSeries collect (n + 1) s = some (L, u)) :
    ∃ e rest t L', s.pending = e :: rest ∧ e.isReset = false ∧ step s = .next t ∧
      servedSeries collect n t = some (L', u) ∧ L = collect e s t ++ L' := by
  unfold servedSeries at h
  split at h
  · cases h
  rename_i e rest hp
  split at h
  · cases h
  rename_i he
  split at h
  · rename_i t ht
    split at h
    · rename_i L' u' hr
      cases h
      exact ⟨e, rest, t, L', hp, by simpa using he, ht, hr, rfl⟩
    · cases h
  · cases h
  · cases h

end Sys2Proof.Machine
end

