-- ==== Sys2Proof/Tests/Slice0.lean ====
section
/-! SUPPORT. Small tests; every expected value is written out from spec/95_test_vectors.md or from the encoding tables
of spec/30_encoding.md. The states are of the build of those vectors, `BLK = 4`, `CHMAX = 2`. -/

namespace Sys2Proof.Machine.Tests

/-! ### Well-formed words: one ill-formed word for each check, refused -/

theorem test_wf_accepts_rows :
    [0x01000000, 0x02000000, 0x10000010, 0x20FFFFFF, 0x21000004, 0x22000000].all (wordWellFormed ·) = true := by decide

-- an opcode of no row; R85: the all-zero word is illegal
theorem test_wf_refuses_unknown_opcode : wordWellFormed 0x00000000 = false ∧ wordWellFormed 0x11000000 = false := by
  decide

-- format Z with a nonzero low field, each of the three
theorem test_wf_refuses_nonzero_field :
    wordWellFormed 0x01000001 = false ∧ wordWellFormed 0x02000001 = false ∧ wordWellFormed 0x22000001 = false := by
  decide

/-! ### Decoding: words written out bit by bit, op in bits 31:24, imm24 in bits 23:0 (R81, R83) -/

theorem test_decode_init : decode 0b00000001_00000000_00000000_00000000 = .cmd .init := by decide
theorem test_decode_reset : decode 0b00000010_00000000_00000000_00000000 = .cmd .reset := by decide
theorem test_decode_pull : decode 0b00010000_00000000_00000000_00010000 = .cmd (.pull 16) := by decide
theorem test_decode_rdreq : decode 0b00100000_11111111_11111111_11111111 = .cmd (.rdreq 16777215) := by decide
theorem test_decode_encode : decode 0b00100001_10000000_00000000_00000001 = .cmd (.encode 8388609) := by decide
theorem test_decode_pad : decode 0b00100010_00000000_00000000_00000000 = .cmd .pad := by decide
theorem test_decode_zero_illegal : decode 0 = .illegal (.unknownOpcode 0) := by decide
theorem test_decode_pad_field_illegal : decode 0x22000001 = .illegal (.nonzeroField 0x22 1) := by decide
theorem test_encode_words :
    encode .init = 0x01000000 ∧ encode (.pull 15) = 0x1000000F ∧ encode (.encode 5) = 0x21000005 := by decide
theorem test_table_word : decodeTableWord 32 0x20000004 = some (.rdreq 4) := by decide

/-! ### The codec: V1, V2 -/

theorem test_dec16_v1 :
    dec16 0x00 0x00 = 0x00000000 ∧ dec16 0x01 0x00 = 0x38000000 ∧ dec16 0xFF 0xFF = 0xB8000000 ∧
    dec16 0x80 0x00 = 0x3B800000 ∧ dec16 0x00 0x01 = 0x3C000000 ∧ dec16 0x34 0x12 = 0x3E11A000 ∧
    dec16 0xCD 0xAB = 0xBF286600 ∧ dec16 0xFF 0x7F = 0x3F7FFE00 ∧ dec16 0x01 0x80 = 0xBF7FFE00 ∧
    dec16 0x00 0x80 = 0xBF800000 := by decide

theorem test_enc16_saturates_v2 :
    enc16 0x3F800000 = (0xFF, 0x7F) ∧ enc16 0xBF800000 = (0x00, 0x80) ∧ enc16 0x3FC00000 = (0xFF, 0x7F) ∧
    enc16 0xBFC00000 = (0x00, 0x80) ∧ enc16 0x3F800001 = (0xFF, 0x7F) ∧ enc16 0x7F7FFFFF = (0xFF, 0x7F) ∧
    enc16 0x7F800000 = (0xFF, 0x7F) ∧ enc16 0xFF800000 = (0x00, 0x80) := by decide

theorem test_enc16_truncates_v2 :
    enc16 0x80000000 = (0x00, 0x00) ∧ enc16 0x3F7FFFFF = (0xFF, 0x7F) ∧ enc16 0xBF7FFFFF = (0x01, 0x80) ∧
    enc16 0xBF7FFF00 = (0x01, 0x80) ∧ enc16 0x3EAAAAAB = (0xAA, 0x2A) ∧ enc16 0xBEAAAAAB = (0x56, 0xD5) ∧
    enc16 0xBDCCCCCD = (0x34, 0xF3) ∧ enc16 0x3E11A000 = (0x34, 0x12) ∧ enc16 0xBE11A001 = (0xCC, 0xED) ∧
    enc16 0xB7FFFFFF = (0x00, 0x00) ∧ enc16 0x00000001 = (0x00, 0x00) ∧ enc16 0x007FFFFF = (0x00, 0x00) := by decide

-- a NaN goes to the parameter, whatever it is (V2, R133)
theorem test_enc16_nan_v2 : encSample 0xFFC00001 = (Config.encNaN 0xFFC00001).toInt := by
  rw [encSample, if_pos (by decide)]

/-! ### States -/

/-- The build of the test vectors. -/
def p42 : Params := { blk := 4, chmax := 2 }

/-- In UNCONF with a format written. -/
def unconfigured (ch bits : Word) : State := { State.resetWith p42 with fmtRate := 44100, fmtCh := ch, fmtBits := bits }

/-- In READY with `CH = 2`, `BPF = 4`. -/
def stereo : State := { unconfigured 2 16 with ch := 2, mode := .ready }

/-- In FAILED with `ERRCODE = 1`. -/
def broken : State := { unconfigured 2 8 with mode := .failed, errcode := .cfgBits, errcmd := 0x01000000 }

/-- `OUTBLK` of V7. -/
def v7 : State :=
  { stereo with mem := ((((stereo.mem.writeWord (outAddr p42 0 0) 0x3E11A000).writeWord (outAddr p42 1 0) 0xBF286600).writeWord
      (outAddr p42 0 1) 0x3FC00000).writeWord (outAddr p42 1 1) 0xBFC00000) }

/-- What a test looks at in an outcome's next state. -/
def view {α : Type} (f : State → α) (o : Host.Outcome State Fault Refusal) : Option α :=
  match o with
  | .next t => some (f t)
  | .fault _ => none
  | .refused _ => none

/-! ### The commands: V4 to V8 -/

theorem test_init_v4 : view (fun t => (t.statusWord, t.bpf)) (exec .init (unconfigured 2 16)) = some (1, 4) := by decide

theorem test_init_faults_v4 :
    view (fun t => (t.errcode, t.errcmd, t.statusWord, t.bpf)) (exec .init (unconfigured 0 0x00010010)) =
      some (.cfgBits, 0x01000000, 2, 0) ∧
    view (fun t => (t.errcode, t.errcmd, t.statusWord, t.bpf)) (exec .init (unconfigured 3 16)) =
      some (.cfgCh, 0x01000000, 2, 0) := by decide

theorem test_reset_v4 :
    view (fun t => (t.statusWord, t.errcode, t.fmtBits, t.dst)) (exec .reset { broken with dst := [0x34] }) =
      some (0, .none, 0, [0x34]) := by decide

-- V5 row 4: `ILQ = 34 12 CD`, answer `AB FF`
theorem test_pull_v5 :
    view (fun t => (t.nin, t.klast, t.ilq, t.events))
      (exec (.pull 13) { stereo with ilq := [0x34, 0x12, 0xCD], source := [.bytes [0xAB, 0xFF]] }) =
        some (1, 2, [0xFF], [.src]) ∧
    view (fun t => (t.mem.readWord 0x10000000, t.mem.readWord 0x10000010))
      (exec (.pull 13) { stereo with ilq := [0x34, 0x12, 0xCD], source := [.bytes [0xAB, 0xFF]] }) =
        some (some 0x3E11A000, some 0xBF286600) := by decide

-- V5 row 7: one byte too many is asked for
theorem test_pull_operand_v5 :
    view (fun t => (t.errcode, t.errcmd, t.ilq, t.mode)) (exec (.pull 16) { stereo with ilq := [0xFF] }) =
      some (.operand, 0x10000010, [0xFF], .failed) := by decide

theorem test_rdreq_v6 :
    view (fun t => (t.dst, t.olq, t.remain)) (exec (.rdreq 2) { stereo with olq := [0x12, 0xCD, 0xAB] }) =
      some ([0x12, 0xCD], [0xAB], 0) ∧
    view (fun t => (t.dst, t.olq, t.remain)) (exec (.rdreq 5) { stereo with olq := [0x12, 0xCD, 0xAB] }) =
      some ([0x12, 0xCD, 0xAB], [], 2) := by decide

theorem test_rdreq_order_v6 :
    view (fun t => (t.errcode, t.errcmd, t.remain)) (exec (.rdreq 4) { stereo with remain := 3 }) =
      some (.order, 0x20000004, 3) := by decide

-- V7 row 3: the cut falls inside a sample
theorem test_encode_v7 :
    view (fun t => (t.dst, t.olq, t.remain)) (exec (.encode 2) { v7 with remain := 5 }) =
      some ([0x34, 0x12, 0xCD, 0xAB, 0xFF], [0x7F, 0x00, 0x80], 0) := by decide

-- V7 last rows: OPERAND is checked before ORDER
theorem test_encode_faults_v7 :
    view (·.errcode) (exec (.encode 5) { v7 with olq := [0xAB] }) = some .operand ∧
    view (·.errcode) (exec (.encode 1) { v7 with olq := [0xAB] }) = some .order := by decide

theorem test_pad_v8 :
    view (fun t => (t.dst, t.remain, t.eos, t.events)) (exec .pad { stereo with remain := 3 }) =
      some ([0, 0, 0], 0, true, [.eos]) ∧
    view (fun t => (t.dst, t.olq, t.eos)) (exec .pad { stereo with olq := [0x12] }) = some ([], [0x12], true) := by decide

/-! ### The bus and the step: V9, V10 -/

/-- One event served from a state, and what is looked at. -/
def served {α : Type} (f : State → α) (e : HostEvent) (s : State) : Option α := view f (step { s with pending := [e] })

theorem test_bus_reads_v9 :
    served (·.resp) (.bus (.read 32 0x00000020)) stereo = some [.data 4] ∧
    served (·.resp) (.bus (.read 32 0x00000024)) stereo = some [.data 2] ∧
    served (·.resp) (.bus (.read 32 0x00000000)) stereo = some [.busError] ∧
    served (·.resp) (.bus (.read 32 0x00000040)) stereo = some [.busError] ∧
    served (·.resp) (.bus (.read 32 0x00000006)) stereo = some [.busError] ∧
    served (·.resp) (.bus (.read 32 0x30000000)) stereo = some [.busError] ∧
    served (·.resp) (.bus (.read 16 0x00000004)) stereo = some [.busError] := by decide

theorem test_bus_writes_v9 :
    served (fun t => (t.resp, t.fmtCh)) (.bus (.write 32 0x00000014 1)) (unconfigured 2 16) = some ([.ok], 1) ∧
    served (fun t => (t.resp, t.fmtCh)) (.bus (.write 32 0x00000014 1)) stereo = some ([.busError], 2) ∧
    served (fun t => (t.resp, t.mem.readWord (outAddr p42 1 3))) (.bus (.write 32 0x2000001C 0x3F000000)) stereo =
      some ([.ok], some 0x3F000000) ∧
    served (·.resp) (.bus (.write 32 0x20000020 0)) stereo = some [.busError] ∧
    served (·.resp) (.bus (.write 32 0x10000000 0)) stereo = some [.busError] := by decide

theorem test_decoder_faults_v10 :
    served (fun t => (t.errcode, t.errcmd, t.resp)) (.bus (.write 32 0 0)) (unconfigured 2 16) =
      some (.illegal, 0, [.ok]) ∧
    served (fun t => (t.errcode, t.errcmd)) (.bus (.write 32 0 0x10000004)) (unconfigured 2 16) =
      some (.badMode, 0x10000004) ∧
    served (fun t => (t.errcode, t.errcmd)) (.bus (.write 32 0 0x02000001)) stereo = some (.illegal, 0x02000001) ∧
    served (fun t => (t.errcode, t.errcmd)) (.bus (.write 32 0 0x20000004)) broken = some (.cfgBits, 0x01000000) ∧
    served (fun t => (t.mode, t.errcode)) (.bus (.write 32 0 0x02000000)) broken = some (.unconf, .none) := by decide

-- R220: `rst` wins over a transaction presented with it
theorem test_rst_wins :
    served (fun t => (t.mode, t.resp)) (.rst (some (.write 32 0x2000001C 0))) broken = some (.unconf, []) := by decide

-- STATUS of P2's end state and of P3's staged byte
theorem test_status_words :
    ({ stereo with ilq := [0xFF] } : State).statusWord = 0x00000009 ∧
    ({ stereo with olq := [0x12] } : State).statusWord = 0x00000011 ∧
    ({ stereo with ilq := [0xCD], eos := true } : State).statusWord = 0x0000000D ∧
    ({ stereo with remain := 8 } : State).statusWord = 0x00000021 := by decide

-- R190's codes, as ERRCODE reads
theorem test_errcode_codes :
    [Cause.none, .cfgBits, .cfgCh, .illegal, .badMode, .operand, .order].map
      (fun c => regRead .errcode { broken with errcode := c }) =
      [some 0, some 1, some 2, some 3, some 4, some 5, some 6] := by decide

-- V3
theorem test_fwant_v3 :
    ({ stereo with remain := 5 } : State).fwant = 2 ∧ ({ stereo with remain := 17 } : State).fwant = 4 ∧
    ({ stereo with remain := 17, mode := .failed } : State).fwant = 0 := by decide

-- the first instruction after reset (R192: PULL is not legal in UNCONF)
theorem test_first_command_after_reset :
    view (fun t => (t.errcode, t.errcmd)) (step (State.reset.withFetchWord 32 0x10000004)) =
      some (.badMode, 0x10000004) := by decide

-- P1: the write of FMT_CH and the reads of the windows in R87's syntax
theorem test_host_syntax :
    wr .fmtCh 1 = .write 32 0x00000014 1 ∧ cmd (.rdreq 8) = .write 32 0 0x20000008 ∧
    rdfIn p42 1 2 = .read 32 0x10000018 ∧ wrf p42 0 3 0x3F800000 = .write 32 0x2000000C 0x3F800000 := by decide

/-! ### Witnesses: concrete states that meet the hypotheses of the statements, clause by clause. The name says which. -/

/-- A next state with a property, from a computation. -/
theorem next_of_view {o : Host.Outcome State Fault Refusal} {P : State → Prop} [DecidablePred P]
    (h : view (fun t => decide (P t)) o = some true) : ∃ t, o = .next t ∧ P t := by
  cases o with
  | next t => exact ⟨t, rfl, by simpa [view] using h⟩
  | fault f => simp [view] at h
  | refused f => simp [view] at h

/-- One event waiting. -/
def State.with1 (s : State) (e : HostEvent) : State := { s with pending := [e] }

/-- A word waiting at CMD. -/
def State.withCmd (s : State) (w : Word) : State := State.with1 s (.bus (.write 32 0x00000000 w))

/-- In READY after a pull and two reads: bytes staged in `ILQ`, a frame in `INBLK`, a request open. -/
def busy : State :=
  { stereo with
    ilq := [0xFF], nin := 1, klast := 5, remain := 5, scratch := [0x34, 0x12, 0xCD, 0xAB, 0xFF], dst := [0x34],
    mem := (stereo.mem.writeWord (outAddr p42 1 3) 0xBF286600).writeWord (inAddr p42 0 0) 0x3E11A000 }

/-- In READY with three bytes staged in `OLQ`. -/
def staged : State := { stereo with olq := [0x12, 0xCD, 0xAB] }

theorem busy_inv : busy.Inv := by
  refine ⟨⟨?_, ?_, ?_, ?_, ?_, ?_, ?_⟩, ⟨?_, ?_, ?_, ?_⟩, ⟨?_, ?_, ?_⟩⟩ <;>
    first | decide | (simp only [InWindow]; decide)

theorem staged_inv : staged.Inv := by
  refine ⟨⟨?_, ?_, ?_, ?_, ?_, ?_, ?_⟩, ⟨?_, ?_, ?_, ?_⟩, ⟨?_, ?_, ?_⟩⟩ <;>
    first | decide | (simp only [InWindow]; decide)

-- words and decoding
theorem witness_DecodeEncodeInverse : decode 0x20FFFFFF = .cmd (.rdreq 0xFFFFFF) := by decide
theorem witness_MatchAndMask_overlap :
    ∃ r ∈ rows, r.spells 0x10000004 = true ∧ ∃ r' ∈ rows, r'.spells 0x10000004 = true := by decide
theorem witness_IllegalWords_step :
    (State.withCmd stereo 0x00000000).pending = .bus (.write 32 0x00000000 0x00000000) :: [] ∧
    (State.withCmd stereo 0x00000000).mode ≠ .failed ∧ ∀ r ∈ rows, (0x00000000 : Word) &&& r.mask ≠ r.pattern := by
  decide
theorem witness_IllegalWords_opcode :
    (0x00FFFFFF : Word).extractLsb' 24 8 ∉ [0x01#8, 0x02#8, 0x10#8, 0x20#8, 0x21#8, 0x22#8] ∧
    (0x23000000 : Word).extractLsb' 24 8 ∉ [0x01#8, 0x02#8, 0x10#8, 0x20#8, 0x21#8, 0x22#8] := by decide
theorem witness_IllegalWords_field :
    (0x22000001 : Word).extractLsb' 24 8 ∈ [0x01#8, 0x02#8, 0x22#8] ∧ (0x22000001 : Word).extractLsb' 0 24 ≠ 0#24 ∧
    (0x01FFFFFF : Word).extractLsb' 24 8 ∈ [0x01#8, 0x02#8, 0x22#8] ∧ (0x01FFFFFF : Word).extractLsb' 0 24 ≠ 0#24 := by
  decide

-- the step
theorem witness_StepRuns :
    (State.withCmd stereo 0x1000000D).pending = .bus (.write 32 0x00000000 0x1000000D) :: [] ∧
    decode 0x1000000D = .cmd (.pull 13) := by decide
theorem witness_Idle : stereo.pending = [] := by decide
theorem witness_Rst : (State.with1 broken (.rst none)).pending = .rst none :: [] ∧
    (State.with1 busy (.rst (some (.write 32 0 0)))).pending = .rst (some (.write 32 0 0)) :: [] := by decide
theorem witness_ParametersAreConstants : ∃ t, step (State.withCmd busy 0x21000002) = .next t ∧ t.params = p42 :=
  next_of_view (by decide)
theorem witness_OutputsOnlyGrow :
    ∃ t, step (State.withCmd busy 0x22000000) = .next t ∧
      t.dst = [0x34, 0, 0, 0, 0, 0] ∧ t.events = [.eos] ∧ t.resp = [.ok] := next_of_view (by decide)

-- INIT and CONSTRUCT: each mode; bits 15 and 17; channel counts 0, 1, CHMAX, CHMAX + 1
theorem witness_Init :
    stereo.mode = .ready ∧ broken.mode = .failed ∧
    (unconfigured 2 15).mode = .unconf ∧ (unconfigured 2 15).fmtBits.toNat ≠ 16 ∧ (unconfigured 2 17).fmtBits.toNat ≠ 16 ∧
    (unconfigured 0 16).fmtBits.toNat = 16 ∧ (unconfigured 0 16).fmtCh.toNat < 1 ∧
    p42.chmax < (unconfigured 3 16).fmtCh.toNat ∧
    1 ≤ (unconfigured 1 16).fmtCh.toNat ∧ (unconfigured 2 16).fmtCh.toNat ≤ p42.chmax := by decide
theorem witness_Construct :
    (State.resetWith p42).mode = .unconf ∧ (1 : Word).toNat ≤ p42.chmax ∧ (2 : Word).toNat ≤ p42.chmax ∧
    (8 : Word) ≠ 16 ∧ (0 : Word).toNat < 1 ∧ p42.chmax < (3 : Word).toNat := by decide
theorem test_construct_p1 :
    view (fun t => (t.mode, t.ch, dataSince (State.resetWith p42) t)) (issueAll (construct 44100 2 16) (State.resetWith p42)) =
      some (.ready, 2, [1]) := by decide

-- PULL: each mode; one byte too many; exactly full, with an answer of frames and a rest
theorem witness_Pull_operand : busy.mode = .ready ∧ busy.scap < (16 : Imm24).toNat + busy.ilq.length := by decide
theorem witness_Pull_full :
    busy.mode = .ready ∧ (15 : Imm24).toNat + busy.ilq.length ≤ busy.scap ∧
    ({ busy with source := [.bytes (List.replicate 15 0x7F)] } : State).srcAnswer (15 : Imm24).toNat =
      some (List.replicate 15 0x7F) := by decide
theorem witness_Pull_lane : 3 < (busy.ilq ++ List.replicate 15 (0x7F : Byte)).length / busy.bpf ∧ 1 < busy.ch.toNat := by
  decide
theorem witness_Source :
    busy.srcAnswer 0 = some [] ∧ [0x7F#8].length ≤ 1 ∧
    ({ busy with source := [.bytes [0x7F]] } : State).source = .bytes [0x7F] :: [] ∧
    ({ busy with source := [.never] } : State).source = .never :: [] ∧
    (15 : Imm24).toNat + ({ busy with source := [.never] } : State).ilq.length ≤
      ({ busy with source := [.never] } : State).scap := by decide
theorem witness_PullLosesNoByte :
    0 < busy.ch.toNat ∧
    ({ busy with source := [.bytes [1, 2, 3, 4, 5]] } : State).srcAnswer (13 : Imm24).toNat = some [1, 2, 3, 4, 5] ∧
    ∃ t, exec (.pull 13) { busy with source := [.bytes [1, 2, 3, 4, 5]] } = .next t ∧ t.ilq = [4, 5] :=
  ⟨by decide, by decide, next_of_view (by decide)⟩
/-- A series from UNCONF: INIT, then PULLs with a read request, a write of OUTBLK, an ENCODE, a register read and PAD
between them, and at last a PULL that faults. -/
def pulling : State :=
  { unconfigured 2 16 with
    source := [.bytes [1, 2, 3, 4, 5], .bytes [6, 7, 8], .bytes [9]]
    pending :=
      [.bus (.write 32 0 0x01000000), .bus (.write 32 0 0x10000005), .bus (.write 32 0 0x20000004),
       .bus (.write 32 0x20000000 0x3F800000), .bus (.write 32 0 0x1000000E), .bus (.read 32 0x00000030),
       .bus (.write 32 0 0x22000000), .bus (.write 32 0 0x10000002), .bus (.write 32 0 0x10000010)] }

theorem pulling_inv : pulling.StagingInv := by
  refine ⟨?_, ?_, ?_, ?_, ?_, ?_, ?_⟩ <;> decide

theorem witness_ChunkingIsInvisible :
    pulling.StagingInv ∧
    (servedSeries pulledBy 9 pulling).map (fun r => (r.1.map (·.answer), r.2.ch, r.2.ilq)) =
      some ([[1, 2, 3, 4, 5], [6, 7, 8], [9]], 2, [9]) :=
  ⟨pulling_inv, by decide⟩

-- RDREQ, ENCODE, PAD: each mode and each check
theorem witness_Rdreq : busy.mode = .ready ∧ busy.remain ≠ 0 ∧ staged.mode = .ready ∧ staged.remain = 0 ∧
    (unconfigured 2 16).mode = .unconf ∧ broken.mode = .failed := by decide
theorem witness_Encode :
    p42.blk < (5 : Imm24).toNat ∧ (4 : Imm24).toNat ≤ p42.blk ∧ staged.olq ≠ [] ∧ busy.olq = [] ∧ busy.params = p42 := by
  decide
theorem witness_EncFrames :
    1 < v7.ch.toNat ∧ v7.params.blk = 4 ∧ v7.mem.readWord (0x20000000 + 4 * (1 * 4 + 1)) = some 0xBFC00000 := by decide
theorem witness_ReferenceHostStages :
    busy.mode = .ready ∧ 0 < busy.ch.toNat ∧ busy.olq = [] ∧ (2 : Imm24).toNat ≤ busy.fwant ∧
    (1 : Imm24).toNat * busy.bpf ≤ busy.remain.toNat ∧ ∃ t, exec (.encode 2) busy = .next t ∧ t.olq.length = 3 :=
  ⟨by decide, by decide, by decide, by decide, by decide, next_of_view (by decide)⟩
theorem witness_Pad : (unconfigured 2 16).mode = .unconf ∧ broken.mode = .failed ∧ busy.mode = .ready := by decide
/-- A series on `staged`: a read request, two ENCODEs of one frame with writes of OUTBLK between them, a read, a
rejected access, a request, PAD, and a word that faults. -/
def series : State :=
  { staged with pending :=
    [.bus (.write 32 0 0x20000008), .bus (.write 32 0x20000000 0x3F800000), .bus (.write 32 0x20000010 0xBF800000),
     .bus (.write 32 0 0x21000001), .bus (.write 32 0x20000000 0x3E11A000), .bus (.read 16 0x00000004),
     .bus (.read 32 0x20000000), .bus (.write 32 0 0x21000001), .bus (.write 32 0 0x20000003),
     .bus (.write 32 0 0x20000001), .bus (.write 32 0 0x22000000), .bus (.write 32 0 0x00000000)] }

theorem series_inv : series.StagingInv := by
  refine ⟨?_, ?_, ?_, ?_, ?_, ?_, ?_⟩ <;> decide

-- the bytes are R130's for the four words 1.0, -1.0, then 4660/32768, -1.0, and the one zero byte of PAD
theorem witness_NoOutputByteIsLost :
    series.StagingInv ∧
    (servedSeries producedBy 12 series).map (·.1) = some [0xFF, 0x7F, 0x00, 0x80, 0x34, 0x12, 0x00, 0x80, 0x00] :=
  ⟨series_inv, by decide⟩

-- frames
theorem witness_NonPullCommandsFrame :
    (∀ req, Instr.encode 1 ≠ .pull req) ∧ Instr.encode 1 ≠ .reset ∧ ∃ t, exec (.encode 1) busy = .next t ∧ t.mode ≠ .failed :=
  ⟨(by intro req h; cases h), by decide, next_of_view (by decide)⟩
theorem witness_OnlyPullWritesInblk :
    busy.Inv ∧ Instr.pull 0 ≠ .reset ∧ ∃ t, exec (.pull 0) busy = .next t ∧ t.nin = 0 :=
  ⟨busy_inv, by decide, next_of_view (by decide)⟩

-- faults and modes
theorem witness_FaultEntry : busy.mode ≠ .failed ∧ ∃ t, command 0x20000004 busy = .next t ∧ t.mode = .failed :=
  ⟨by decide, next_of_view (by decide)⟩
theorem witness_Failed_word :
    broken.mode = .failed ∧ (0x01000000 : Word) ≠ 0x02000000 ∧
    (State.withCmd broken 0x01000000).pending = .bus (.write 32 0x00000000 0x01000000) :: [] := by decide
theorem witness_Failed_event :
    (HostEvent.bus (.write 32 0x2000001C 7)).isReset = false ∧
    ∃ t, step (State.with1 broken (.bus (.write 32 0x2000001C 7))) = .next t ∧ t.resp = [.ok] :=
  ⟨by decide, next_of_view (by decide)⟩
theorem witness_Failed_format : ∀ a ∈ [0x10#32, 0x14#32, 0x18#32],
    (State.with1 broken (.bus (.write 32 a 7))).pending = .bus (.write 32 a 7) :: [] := fun _ _ => rfl
theorem witness_Failed_outblk : 1 < broken.params.chmax ∧ 3 < broken.params.blk := by decide
theorem witness_Failed_reads :
    regRead .errcode broken = some 1 ∧
    ({ broken with mem := v7.mem } : State).mem.readWord (0x20000000 + 4 * (1 * 4 + 1)) = some 0xBFC00000 := by decide
theorem witness_OnlyResetLeavesFailed :
    ∃ t, step (State.withCmd broken 0x02000000) = .next t ∧ t.mode ≠ .failed := next_of_view (by decide)
theorem witness_irqErr : broken.irqErr = true ∧ broken.mode = .failed ∧ busy.irqErr = false ∧ busy.mode ≠ .failed := by
  decide
theorem witness_ModeChanges :
    (∃ t, step (State.withCmd (unconfigured 2 16) 0x01000000) = .next t ∧ t.mode ≠ .unconf) ∧
    (∃ t, step (State.with1 busy (.rst none)) = .next t ∧ t.mode ≠ .ready) ∧
    ∃ t, step (State.withCmd busy 0x20000004) = .next t ∧ t.mode ≠ .ready :=
  ⟨next_of_view (by decide), next_of_view (by decide), next_of_view (by decide)⟩
theorem witness_Eos :
    (∃ t, step (State.with1 { busy with eos := true } (.rst none)) = .next t ∧ t.eos = false) ∧
    busy.eos = false ∧ ∃ t, step (State.withCmd busy 0x22000000) = .next t ∧ t.eos = true :=
  ⟨next_of_view (by decide), by decide, next_of_view (by decide)⟩
theorem witness_FormatIsFixed :
    (HostEvent.bus (.write 32 0x14 1)).isReset = false ∧ busy.mode ≠ .unconf ∧
    ∃ t, step (State.with1 busy (.bus (.write 32 0x14 1))) = .next t ∧ t.fmtCh = 2 :=
  ⟨by decide, by decide, next_of_view (by decide)⟩
theorem witness_Pulses :
    (∃ t, step (State.withCmd { busy with source := [.bytes [7]] } 0x10000001) = .next t ∧ t.events = [.src]) ∧
    ∃ t, step (State.withCmd { busy with source := [.bytes [7]] } 0x10000000) = .next t ∧ t.events = [] :=
  ⟨next_of_view (by decide), next_of_view (by decide)⟩

-- the bus
theorem witness_RegisterReads :
    (State.with1 busy (.bus (.read 32 (BitVec.ofNat 32 0x04)))).pending = .bus (.read 32 (BitVec.ofNat 32 0x04)) :: [] ∧
    (State.with1 busy (.bus (.read 32 (BitVec.ofNat 32 0x3C)))).pending = .bus (.read 32 (BitVec.ofNat 32 0x3C)) :: [] := by
  decide
theorem witness_FwantCoversRemain :
    ((unconfigured 2 16).mode ≠ .ready ∧ (unconfigured 2 16).ch = 0) ∧
    (({ busy with mode := .failed } : State).mode ≠ .ready ∧ 0 < ({ busy with mode := .failed } : State).ch.toNat) ∧
    busy.mode = .ready ∧ 0 < busy.ch.toNat ∧ busy.fwant < p42.blk ∧ 0 < busy.fwant := by
  decide
theorem witness_WindowAddresses :
    0 < p42.chmax ∧ 0 < p42.blk ∧ target p42 0x10000000 = .inblk 0 0 ∧ target p42 0x2000001C = .outblk 1 3 := by decide
theorem witness_OutblkWriteThenRead :
    ({ stereo with pending := [.bus (.write 32 0x2000001C 7), .bus (.read 32 0x2000001C)] } : State).pending =
      .bus (.write 32 (BitVec.ofNat 32 (0x20000000 + 4 * (1 * 4 + 3))) 7) ::
      .bus (.read 32 (BitVec.ofNat 32 (0x20000000 + 4 * (1 * 4 + 3)))) :: [] ∧ 1 < stereo.params.chmax ∧
    3 < stereo.params.blk := by decide
theorem witness_Unwritten :
    busy.mem.readWord (0x10000000 + 4 * (1 * 4 + 3)) = none ∧ busy.mem.readWord (0x20000000 + 4 * (0 * 4 + 0)) = none ∧
    1 < busy.params.chmax ∧ busy.params.blk = 4 := by decide
-- a word of INBLK in READY, one of OUTBLK in UNCONF
theorem witness_Written :
    0 < busy.params.chmax ∧ 0 < busy.params.blk ∧
    busy.mem.readWord (0x10000000 + 4 * (0 * 4 + 0)) = some 0x3E11A000 ∧
    (State.with1 busy (.bus (.read 32 0x10000000))).pending = .bus (.read 32 (BitVec.ofNat 32 0x10000000)) :: [] ∧
    ({ State.resetWith p42 with mem := v7.mem } : State).mem.readWord (0x20000000 + 4 * (1 * 4 + 1)) = some 0xBFC00000 ∧
    ({ State.resetWith p42 with mem := v7.mem } : State).mode = .unconf := by decide
theorem witness_FormatRegisters : (State.with1 (unconfigured 2 16) (.bus (.write 32 0x10 7))).mode = .unconf ∧
    (State.with1 (unconfigured 2 16) (.bus (.write 32 0x18 7))).pending = .bus (.write 32 0x18 7) :: [] := by decide
theorem witness_BusErrors_a_to_c :
    BusErrorCause stereo (.read 32 0x00000006) ∧ BusErrorCause stereo (.read 16 0x00000004) ∧
    BusErrorCause stereo (.read 32 0x30000000) ∧ BusErrorCause stereo (.read 32 0x00000040) ∧
    BusErrorCause stereo (.read 32 0x10000020) ∧ BusErrorCause stereo (.write 32 0x20000020 0) := by
  refine ⟨?_, ?_, ?_, ?_, ?_, ?_⟩ <;> simp only [BusErrorCause] <;> decide
theorem witness_BusErrors_d_to_f :
    BusErrorCause stereo (.read 32 0x00000000) ∧ BusErrorCause stereo (.write 32 0x0000003C 0) ∧
    BusErrorCause stereo (.write 32 0x10000000 0) ∧ BusErrorCause stereo (.write 32 0x00000018 0) := by
  refine ⟨?_, ?_, ?_, ?_⟩ <;> simp only [BusErrorCause] <;> decide
theorem witness_BusErrors_none :
    ¬ BusErrorCause stereo (.read 32 0x0000003C) ∧ ¬ BusErrorCause stereo (.read 32 0x1000001C) ∧
    ¬ BusErrorCause stereo (.write 32 0x2000001C 0) ∧ ¬ BusErrorCause (unconfigured 2 16) (.write 32 0x00000018 0) := by
  refine ⟨?_, ?_, ?_, ?_⟩ <;> simp only [BusErrorCause] <;> decide
theorem witness_Reads : (State.with1 busy (.bus (.read 32 0x3C))).pending = .bus (.read 32 0x3C) :: [] := by decide

-- the codec
theorem witness_Dec16Pattern :
    ((0x00#8 ++ 0x00#8 : BitVec 16).toInt = 0) ∧ ((0x80#8 ++ 0x00#8 : BitVec 16).toInt = -32768) := by decide
theorem witness_Enc16_saturates :
    isNaN 0xBF800000 = false ∧ f32Units 0xBF800000 ≤ -f32One ∧ isNaN 0x7F800000 = false ∧ f32One ≤ f32Units 0x7F800000 := by
  decide
theorem witness_Enc16_truncates :
    isNaN 0xBF7FFFFF = false ∧ -f32One < f32Units 0xBF7FFFFF ∧ f32Units 0xBF7FFFFF ≤ 0 ∧
    isNaN 0x3F7FFFFF = false ∧ f32Units 0x3F7FFFFF < f32One ∧ 0 ≤ f32Units 0x3F7FFFFF := by decide
theorem witness_Enc16_zero :
    ((0x807FFFFF : Word).extractLsb' 23 8).toNat = 0 ∧ (f32Units 0x37FFFFFF).natAbs * 32768 < 2 ^ 149 := by decide
theorem witness_Enc16_nan : isNaN 0xFFFFFFFF = true := by decide
theorem witness_Nan : ((0x7F800001 : Word).extractLsb' 23 8).toNat = 255 ∧ ((0x7F800001 : Word).extractLsb' 0 23).toNat ≠ 0 := by
  decide

-- the invariants and READ
theorem witness_StepKeepsInv : busy.Inv ∧ ∃ t, step (State.withCmd busy 0x21000002) = .next t ∧ t.mode = .ready :=
  ⟨busy_inv, next_of_view (by decide)⟩
theorem witness_Reachable : Reachable (State.resetWith p42) := .reset p42

/-- A block with a mono format and a source of two bytes. -/
def mono : State := { stereo with fmtCh := 1, ch := 1, source := [.bytes [0x34, 0x12]] }

theorem mono_inv : mono.Inv := by
  refine ⟨⟨?_, ?_, ?_, ?_, ?_, ?_, ?_⟩, ⟨?_, ?_, ?_, ?_⟩, ⟨?_, ?_, ?_⟩⟩ <;>
    first | decide | (simp only [InWindow]; decide)

/-- The macro returned, and this was delivered. -/
def returnedDst {σ : Type} (r : HostRun σ) : Option (List Byte) :=
  match r with
  | .returned _ s => some s.dst
  | .running _ _ => none
  | .stopped _ => none
  | .refused _ => none

-- R177, R134: through the identity stretcher the source's bytes come out
theorem witness_Read :
    mono.Inv ∧ mono.mode = .ready ∧ mono.remain = 0 ∧
    returnedDst (readMacro identityStretcher 3 2 [] mono) = some [0x34, 0x12] :=
  ⟨mono_inv, by decide, by decide, by decide⟩

end Sys2Proof.Machine.Tests
end

section
/-! The parameters of the build along a step: one lemma for each layer of it, from the commands outwards. -/

namespace Sys2Proof.Machine

variable {s t : State}

theorem exec_params {i : Instr} (h : exec i s = .next t) : t.params = s.params := by
  cases i with
  | init =>
    rcases execInit_next h with ⟨_, _, rfl⟩ | ⟨_, _, _, rfl⟩ | ⟨_, _, _, _, rfl⟩ | ⟨_, rfl⟩ | ⟨_, rfl⟩ <;> rfl
  | reset =>
    cases h
    exact State.resetBlock_params s
  | pull req =>
    rcases execPull_next h with ⟨_, _, rfl⟩ | ⟨_, _, B, _, rfl⟩ | ⟨_, rfl⟩ | ⟨_, rfl⟩ <;> simp
  | rdreq count =>
    rcases execRdreq_next h with ⟨_, _, rfl⟩ | ⟨_, _, rfl⟩ | ⟨_, rfl⟩ | ⟨_, rfl⟩ <;> simp
  | encode m =>
    rcases execEncode_next h with ⟨_, _, rfl⟩ | ⟨_, _, _, rfl⟩ | ⟨_, _, _, rfl⟩ | ⟨_, rfl⟩ | ⟨_, rfl⟩ <;> simp
  | pad =>
    rcases execPad_next h with ⟨_, rfl⟩ | ⟨_, rfl⟩ | ⟨_, rfl⟩ <;> simp

theorem command_params {w : Word} (h : command w s = .next t) : t.params = s.params := by
  rcases command_next h with ⟨i, _, hexec⟩ | ⟨_, _, _, rfl⟩ | ⟨_, _, _, rfl⟩
  · exact exec_params hexec
  · exact State.takeFault_params s _ _
  · rfl

/-- Of the five things an event can do, only a command's word needs the commands; the others write other fields. -/
theorem Served.params {e : HostEvent} (h : Served s e t) : t.params = s.params := by
  cases h with
  | command w u hu => exact (State.respond_params u _).trans (command_params hu)
  | reset => exact State.resetBlock_params s
  | answered => rfl
  | format => rfl
  | window => rfl

/-- Settles O8: an idle block keeps all state, and an event that is served keeps the parameters (R6, R33, R222). -/
theorem parametersAreConstants : Obligations.ParametersAreConstants := by
  intro s t h
  rcases step_next h with ⟨_, rfl⟩ | ⟨e, rest, _, _, served⟩
  · rfl
  · exact served.params

end Sys2Proof.Machine
end

section
/-! What a command does when it completes: one inductive relation, exactly `exec`, that the statements about commands
and steps take apart. -/

namespace Sys2Proof.Machine

/-- The checks that raise a fault, with the cause each raises, in the order of R192: the mode, then the command's own. -/
inductive Raises (s : State) : Instr → Cause → Prop where
  /-- INIT again in READY (R192). -/
  | initInReady : s.mode = .ready → Raises s .init .badMode
  /-- PULL, RDREQ, ENCODE or PAD in UNCONF (R192). -/
  | streamInUnconf (i : Instr) : i ≠ .init → i ≠ .reset → s.mode = .unconf → Raises s i .badMode
  /-- INIT with a bit depth other than 16 (R100). -/
  | initBits : s.mode = .unconf → s.fmtBits.toNat ≠ 16 → Raises s .init .cfgBits
  /-- INIT with a channel count out of range (R100). -/
  | initChannels : s.mode = .unconf → s.fmtBits.toNat = 16 → (s.fmtCh.toNat < 1 ∨ s.params.chmax < s.fmtCh.toNat) →
      Raises s .init .cfgCh
  /-- PULL of more than fits behind the leftover (R115). -/
  | pullTooLong (req : Imm24) : s.mode = .ready → s.scap < req.toNat + s.ilq.length → Raises s (.pull req) .operand
  /-- RDREQ while a read request is open (R140). -/
  | rdreqOpen (count : Imm24) : s.mode = .ready → s.remain ≠ 0 → Raises s (.rdreq count) .order
  /-- ENCODE of more frames than a block holds (R145). -/
  | encodeTooLong (m : Imm24) : s.mode = .ready → s.params.blk < m.toNat → Raises s (.encode m) .operand
  /-- ENCODE while bytes are staged (R145). -/
  | encodeStaged (m : Imm24) : s.mode = .ready → m.toNat ≤ s.params.blk → s.olq.length ≠ 0 → Raises s (.encode m) .order

/-- What a command does to the block when it completes. -/
inductive Ran (s : State) : Instr → State → Prop where
  /-- RESET, in every mode (R101). -/
  | reset : Ran s .reset s.resetBlock
  /-- Any other command in FAILED is discarded (R196). -/
  | discarded (i : Instr) : i ≠ .reset → s.mode = .failed → Ran s i s
  /-- A check fails (R193). -/
  | faulted (i : Instr) (cause : Cause) : Raises s i cause → Ran s i (s.takeFault cause (encode i))
  /-- INIT latches the format (R100). -/
  | init : s.mode = .unconf → s.fmtBits.toNat = 16 → 1 ≤ s.fmtCh.toNat → s.fmtCh.toNat ≤ s.params.chmax →
      Ran s .init { s with ch := s.fmtCh.extractLsb' 0 8, mode := .ready }
  /-- PULL with the source's answer `B` (R115). -/
  | pull (req : Imm24) (B : List Byte) : s.mode = .ready → req.toNat + s.ilq.length ≤ s.scap →
      s.srcAnswer req.toNat = some B → Ran s (.pull req) ((s.srcAdvance req.toNat).pullWith B)
  /-- RDREQ delivers the `d` oldest staged bytes (R140). -/
  | rdreq (count : Imm24) (d : Nat) : s.mode = .ready → s.remain = 0 → d = min s.olq.length count.toNat →
      Ran s (.rdreq count) (s.deliver (s.olq.take d) (s.olq.drop d) (count.toNat - d))
  /-- ENCODE delivers the first `e` of the encoded bytes `E` and stages the others (R145). -/
  | encode (m : Imm24) (E : List Byte) (e : Nat) : s.mode = .ready → m.toNat ≤ s.params.blk → s.olq.length = 0 →
      E = s.encFrames m.toNat → e = min s.remain.toNat E.length →
      Ran s (.encode m) ((s.deliver (E.take e) (E.drop e) (s.remain.toNat - e)).useDraws (m.toNat * s.ch.toNat))
  /-- PAD completes the request with zero bytes (R150). -/
  | pad : s.mode = .ready → Ran s .pad ((s.dstWrite (List.replicate s.remain.toNat 0)).closeRequest.pulse .eos)

variable {s t : State} {i : Instr}

theorem Raises.cause_ne_none {c : Cause} (h : Raises s i c) : c ≠ .none := by
  cases h <;> decide

theorem Raises.not_failed {c : Cause} (h : Raises s i c) : s.mode ≠ .failed := by
  cases h <;> simp [*]

theorem readyOnly_ready {run : Host.Outcome State Fault Refusal} (hm : s.mode = .ready) : readyOnly i s run = run := by
  simp [readyOnly, hm]

theorem readyOnly_unconf {run : Host.Outcome State Fault Refusal} (hm : s.mode = .unconf) :
    readyOnly i s run = .next (s.takeFault .badMode (encode i)) := by
  simp [readyOnly, hm]

theorem readyOnly_failed {run : Host.Outcome State Fault Refusal} (hm : s.mode = .failed) :
    readyOnly i s run = .next s := by
  simp [readyOnly, hm]

theorem unconfOnly_unconf {run : Host.Outcome State Fault Refusal} (hm : s.mode = .unconf) :
    unconfOnly i s run = run := by
  simp [unconfOnly, hm]

theorem unconfOnly_ready {run : Host.Outcome State Fault Refusal} (hm : s.mode = .ready) :
    unconfOnly i s run = .next (s.takeFault .badMode (encode i)) := by
  simp [unconfOnly, hm]

theorem unconfOnly_failed {run : Host.Outcome State Fault Refusal} (hm : s.mode = .failed) :
    unconfOnly i s run = .next s := by
  simp [unconfOnly, hm]

/-- A command whose check fails in `s` completes with the fault entry. -/
theorem Raises.exec_eq {c : Cause} (h : Raises s i c) : exec i s = .next (s.takeFault c (encode i)) := by
  cases h with
  | initInReady hm => exact unconfOnly_ready hm
  | streamInUnconf i hi hr hm =>
    cases i with
    | init => exact absurd rfl hi
    | reset => exact absurd rfl hr
    | pull | rdreq | encode | pad => exact readyOnly_unconf hm
  | initBits hm hb => exact (unconfOnly_unconf hm).trans (if_pos hb)
  | initChannels hm hb hc => exact (unconfOnly_unconf hm).trans ((if_neg (not_not.mpr hb)).trans (if_pos hc))
  | pullTooLong req hm hr => exact (readyOnly_ready hm).trans (if_pos hr)
  | rdreqOpen count hm hr => exact (readyOnly_ready hm).trans (if_pos hr)
  | encodeTooLong m hm hb => exact (readyOnly_ready hm).trans (if_pos hb)
  | encodeStaged m hm hb ho => exact (readyOnly_ready hm).trans ((if_neg (Nat.not_lt.mpr hb)).trans (if_pos ho))

/-- FAILED discards every command but RESET (R196). -/
theorem exec_of_failed (hi : i ≠ .reset) (hm : s.mode = .failed) : exec i s = .next s := by
  cases i with
  | init => exact unconfOnly_failed hm
  | reset => exact absurd rfl hi
  | pull | rdreq | encode | pad => exact readyOnly_failed hm

theorem exec_of_ran (h : Ran s i t) : exec i s = .next t := by
  cases h with
  | reset => rfl
  | discarded i hi hm => exact exec_of_failed hi hm
  | faulted i c hc => exact hc.exec_eq
  | init hm hb h1 hmax =>
    exact (unconfOnly_unconf hm).trans ((if_neg (not_not.mpr hb)).trans (if_neg (by omega)))
  | pull req B hm hr hB =>
    refine (readyOnly_ready hm).trans ((if_neg (Nat.not_lt.mpr hr)).trans ?_)
    rw [hB]
  | rdreq count d hm hr hd => subst hd; exact (readyOnly_ready hm).trans (if_neg (not_not.mpr hr))
  | encode m E e hm hb ho hE he =>
    subst he hE
    exact (readyOnly_ready hm).trans ((if_neg (Nat.not_lt.mpr hb)).trans (if_neg (not_not.mpr ho)))
  | pad hm => exact readyOnly_ready hm

theorem ran_of_exec (h : exec i s = .next t) : Ran s i t := by
  cases i with
  | init =>
    rcases execInit_next h with ⟨hm, hb, rfl⟩ | ⟨hm, hb, hc, rfl⟩ | ⟨hm, hb, h1, hmax, rfl⟩ | ⟨hm, rfl⟩ | ⟨hm, rfl⟩
    · exact .faulted _ _ (.initBits hm hb)
    · exact .faulted _ _ (.initChannels hm hb hc)
    · exact .init hm hb h1 hmax
    · exact .faulted _ _ (.initInReady hm)
    · exact .discarded _ nofun hm
  | reset => cases h; exact .reset
  | pull req =>
    rcases execPull_next h with ⟨hm, hr, rfl⟩ | ⟨hm, hr, B, hB, rfl⟩ | ⟨hm, rfl⟩ | ⟨hm, rfl⟩
    · exact .faulted _ _ (.pullTooLong req hm hr)
    · exact .pull req B hm hr hB
    · exact .faulted _ _ (.streamInUnconf _ nofun nofun hm)
    · exact .discarded _ nofun hm
  | rdreq count =>
    rcases execRdreq_next h with ⟨hm, hr, rfl⟩ | ⟨hm, hr, rfl⟩ | ⟨hm, rfl⟩ | ⟨hm, rfl⟩
    · exact .faulted _ _ (.rdreqOpen count hm hr)
    · exact .rdreq count _ hm hr rfl
    · exact .faulted _ _ (.streamInUnconf _ nofun nofun hm)
    · exact .discarded _ nofun hm
  | encode m =>
    rcases execEncode_next h with ⟨hm, hb, rfl⟩ | ⟨hm, hb, ho, rfl⟩ | ⟨hm, hb, ho, rfl⟩ | ⟨hm, rfl⟩ | ⟨hm, rfl⟩
    · exact .faulted _ _ (.encodeTooLong m hm hb)
    · exact .faulted _ _ (.encodeStaged m hm hb ho)
    · exact .encode m _ _ hm hb ho rfl rfl
    · exact .faulted _ _ (.streamInUnconf _ nofun nofun hm)
    · exact .discarded _ nofun hm
  | pad =>
    rcases execPad_next h with ⟨hm, rfl⟩ | ⟨hm, rfl⟩ | ⟨hm, rfl⟩
    · exact .pad hm
    · exact .faulted _ _ (.streamInUnconf _ nofun nofun hm)
    · exact .discarded _ nofun hm

/-- `Ran` says everything a completed command can do, its checks included, and nothing else. -/
theorem exec_eq_next_iff : exec i s = .next t ↔ Ran s i t := ⟨ran_of_exec, exec_of_ran⟩

/-- A word is its two fields, one above the other (R81). -/
theorem word_of_fields {w : Word} {op : Byte} {low : Imm24} (hop : opField w = op) (hlow : immField w = low) :
    op ++ low = w := by
  subst hop hlow
  exact BitVec.extractLsb'_append_extractLsb'

theorem decodeZ_cmd {j : Instr} {w : Word} (h : decodeZ j w = .cmd i) : j = i ∧ immField w = 0 := by
  unfold decodeZ at h
  split at h
  · exact ⟨Decoded.cmd.inj h, ‹_›⟩
  · cases h

/-- A word that decodes to a command is that command's encoding (R83). -/
theorem encode_of_decode {w : Word} (h : decode w = .cmd i) : encode i = w := by
  have formatZ {j : Instr} {op : Byte} (hj : encode j = op ++ 0#24) (hop : opField w = op)
      (hz : decodeZ j w = .cmd i) : encode i = w := by
    obtain ⟨rfl, hlow⟩ := decodeZ_cmd hz
    exact hj.trans (word_of_fields hop hlow)
  unfold decode at h
  split at h
  · exact formatZ (j := .init) rfl ‹_› h
  split at h
  · exact formatZ (j := .reset) rfl ‹_› h
  split at h
  · cases h; exact word_of_fields ‹_› rfl
  split at h
  · cases h; exact word_of_fields ‹_› rfl
  split at h
  · cases h; exact word_of_fields ‹_› rfl
  split at h
  · exact formatZ (j := .pad) rfl ‹_› h
  · cases h

/-- What a word written to CMD does when it completes (R84): the command it encodes runs, or it is illegal. -/
theorem command_ran {w : Word} (h : command w s = .next t) :
    (∃ i, w = encode i ∧ Ran s i t) ∨ (s.mode ≠ .failed ∧ t = s.takeFault .illegal w) ∨ (s.mode = .failed ∧ t = s) := by
  rcases command_next h with ⟨i, hd, hx⟩ | ⟨_, _, hm, ht⟩ | ⟨_, _, hm, ht⟩
  · exact .inl ⟨i, (encode_of_decode hd).symm, ran_of_exec hx⟩
  · exact .inr (.inl ⟨hm, ht⟩)
  · exact .inr (.inr ⟨hm, ht⟩)

end Sys2Proof.Machine
end

section
/-! The invariant along a step: which updates keep it, then each command, then a served event (R45). -/

namespace Sys2Proof.Machine

variable {s t : State}

/-! ### Window addresses -/

theorem params_blk_le (p : Params) : p.blk ≤ 2 ^ 26 :=
  (Nat.le_mul_of_pos_left _ p.chmax_pos).trans p.window_le

theorem windowBytes_le (p : Params) : windowBytes p ≤ 0x10000000 := by
  have := p.window_le
  unfold windowBytes
  rw [Nat.mul_assoc]
  omega

/-- Every lane of a window ends inside the window (R61, R62). -/
theorem lane_end_le {p : Params} {c i : Nat} (hc : c < p.chmax) (hi : i < p.blk) :
    4 * (c * p.blk + i) + 4 ≤ windowBytes p := by
  have : (c + 1) * p.blk ≤ p.chmax * p.blk := Nat.mul_le_mul_right _ hc
  rw [Nat.succ_mul] at this
  unfold windowBytes
  rw [Nat.mul_assoc]
  omega

theorem inWindow_of_inLane {p : Params} {c i a : Nat} (hc : c < p.chmax) (hi : i < p.blk)
    (ha : inAddr p c i ≤ a ∧ a < inAddr p c i + 4) : InWindow p a := by
  have := lane_end_le hc hi
  unfold inAddr at ha
  exact .inl ⟨by omega, by omega⟩

theorem inWindow_of_outLane {p : Params} {c i a : Nat} (hc : c < p.chmax) (hi : i < p.blk)
    (ha : outAddr p c i ≤ a ∧ a < outAddr p c i + 4) : InWindow p a := by
  have := lane_end_le hc hi
  unfold outAddr at ha
  exact .inr ⟨by omega, by omega⟩

/-! ### Updates of the state that keep the invariant -/

/-- The invariant speaks of no port and of none of the model's own lists. -/
theorem State.Inv.withPorts (h : s.Inv) (dst : List Byte) (events : List Event) (resp : List BusResp)
    (pending : List HostEvent) (source : List SrcAnswer) (draws : Nat) :
    ({ s with dst := dst, events := events, resp := resp, pending := pending, source := source,
              draws := draws } : State).Inv :=
  ⟨{ h.staging with }, { h.modes with }, { h.memory with }⟩

theorem State.Inv.respond (h : s.Inv) (r : BusResp) : (s.respond r).Inv := h.withPorts _ _ _ _ _ _

theorem inv_resetWith (p : Params) : (State.resetWith p).Inv where
  staging := by constructor <;> simp
  modes := by constructor <;> simp
  memory := by constructor <;> simp [Memory.wf]

theorem inv_resetBlock (s : State) : s.resetBlock.Inv := (inv_resetWith s.params).withPorts _ _ _ _ _ _

/-- A fault entry keeps the queues and the counts, and FAILED is asked for a cause alone (R193). -/
theorem State.Inv.takeFault (h : s.Inv) {cause : Cause} (hc : cause ≠ .none) (w : Word) : (s.takeFault cause w).Inv where
  staging := { h.staging with unconf := by simp }
  modes := { h.modes with ready := by simp, no_error := by simp, error := fun _ => hc }
  memory := { h.memory with }

/-- A format register written in UNCONF, where READY's agreement of format and channel count is not asked for. -/
theorem State.Inv.withFormat (h : s.Inv) (hm : s.mode = .unconf) (rate ch bits : Word) :
    ({ s with fmtRate := rate, fmtCh := ch, fmtBits := bits } : State).Inv where
  staging := { h.staging with }
  modes := { h.modes with ready := by simp [hm] }
  memory := { h.memory with }

theorem State.Inv.writeOutblk (h : s.Inv) {c i : Nat} (hc : c < s.params.chmax) (hi : i < s.params.blk) (w : Word) :
    ({ s with mem := s.mem.writeWord (outAddr s.params c i) w } : State).Inv where
  staging := { h.staging with }
  modes := { h.modes with }
  memory :=
    { h.memory with
      wf := Memory.wf_writeWord h.memory.wf _ _
      mapped := fun _ hx => (Memory.mem_writeWord hx).elim (inWindow_of_outLane hc hi) (h.memory.mapped _) }

/-! ### INIT -/

/-- INIT finds the queues empty and the counts 0 (R45(e)), so any latched count keeps R45. -/
theorem State.Inv.init (h : s.Inv) (hm : s.mode = .unconf) (hb : s.fmtBits.toNat = 16) (h1 : 1 ≤ s.fmtCh.toNat)
    (hmax : s.fmtCh.toNat ≤ s.params.chmax) :
    ({ s with ch := s.fmtCh.extractLsb' 0 8, mode := .ready } : State).Inv := by
  have hch : (s.fmtCh.extractLsb' 0 8).toNat = s.fmtCh.toNat := by
    have := s.params.chmax_le
    rw [BitVec.extractLsb'_toNat, Nat.shiftRight_zero, Nat.mod_eq_of_lt (by omega)]
  obtain ⟨hilq, holq, hrem, hnin, hklast, -, hch0⟩ := h.staging.unconf hm
  have hscr : s.scratch = [] := by
    simpa [State.scap, State.bpf, hch0] using h.memory.scratch_le
  exact
    { staging :=
        { ilq_le := by simp [hilq]
          ilq_empty := by simp [hilq]
          olq_le := by simp [holq]
          olq_remain := fun _ => hrem
          nin_le := by simp [hnin]
          klast_le := by simp [hklast]
          unconf := nofun }
      modes :=
        { ready := fun _ => ⟨hch ▸ h1, hch.symm, hb⟩
          ch_le := hch ▸ hmax
          no_error := fun _ => h.modes.no_error (by simp [hm])
          error := nofun }
      memory := { h.memory with scratch_le := by simp [hscr] } }

/-! ### PULL -/

section Pull

variable {B : List Byte}

/-- What a PULL completes fits the block (R115). -/
theorem pullFrames_le (hfit : B.length + s.ilq.length ≤ s.scap) : s.pullFrames B ≤ s.params.blk := by
  unfold State.pullFrames
  rcases Nat.eq_zero_or_pos s.bpf with h0 | hpos
  · simp [h0]
  · rw [Nat.div_le_iff_le_mul_add_pred hpos]
    unfold State.scap at hfit
    rw [Nat.mul_comm s.bpf]
    omega

theorem stagingInv_pullWith (h : s.StagingInv) (hm : s.mode = .ready) (hch : 0 < s.ch.toNat)
    (hfit : B.length + s.ilq.length ≤ s.scap) : (s.pullWith B).StagingInv :=
  { h with
    ilq_le := fun _ => by
      have hmod : (s.ilq.length + B.length) % s.bpf < s.bpf := Nat.mod_lt _ (by unfold State.bpf; omega)
      have := List.length_take_le ((s.ilq.length + B.length) % s.bpf)
        ((s.pullScratch B).drop (s.pullFrames B * s.bpf))
      show (s.pullWith B).ilq.length ≤ s.bpf - 1
      rw [State.pullWith_ilq]
      omega
    ilq_empty := fun h0 => absurd h0 (Nat.ne_of_gt hch)
    nin_le := pullFrames_le hfit
    klast_le := by
      show (BitVec.ofNat 24 B.length).toNat ≤ s.scap
      rw [BitVec.toNat_ofNat]
      exact (Nat.mod_le _ _).trans (by omega)
    unconf := by simp [hm] }

theorem memInv_pullWith (h : s.MemInv) (hch : s.ch.toNat ≤ s.params.chmax)
    (hfit : B.length + s.ilq.length ≤ s.scap) : (s.pullWith B).MemInv where
  wf := decodeFrames_wf _ _ _ _ h.wf
  mapped x hx := by
    rcases mem_decodeFrames _ _ _ _ hx with ⟨i, c, hi, hc, ha⟩ | hx
    · exact inWindow_of_inLane (hc.trans_le hch) (hi.trans_le (pullFrames_le hfit)) ha
    · exact h.mapped x hx
  scratch_le := by
    have := h.scratch_le
    show (s.pullScratch B).length ≤ s.scap
    simp only [State.pullScratch, List.length_append, List.length_drop]
    omega

theorem State.Inv.pullWith (h : s.Inv) (hm : s.mode = .ready) (hfit : B.length + s.ilq.length ≤ s.scap) :
    (s.pullWith B).Inv where
  staging := stagingInv_pullWith h.staging hm (h.modes.ready hm).1 hfit
  modes := { h.modes with }
  memory := memInv_pullWith h.memory h.modes.ch_le hfit

/-- The source's step is a change of the model's own lists alone. -/
theorem State.Inv.srcAdvance (h : s.Inv) (req : Nat) : (s.srcAdvance req).Inv := by
  unfold State.srcAdvance
  split
  · exact h
  · split <;> exact h.withPorts _ _ _ _ _ _

/-- PULL's check is on the request, and the answer is no longer (R66, R115). -/
theorem answer_fits {req : Nat} (hr : req + s.ilq.length ≤ s.scap) (hB : s.srcAnswer req = some B) :
    B.length + (s.srcAdvance req).ilq.length ≤ (s.srcAdvance req).scap := by
  have := srcAnswer_length hB
  simp only [State.srcAdvance_ilq, State.scap, State.bpf, State.srcAdvance_params, State.srcAdvance_ch] at hr ⊢
  omega

end Pull

/-! ### RDREQ, ENCODE, PAD -/

/-- A delivery that stages bytes only when nothing remains of the request (R45(b), R45(c)). -/
theorem State.Inv.deliver (h : s.Inv) (hm : s.mode = .ready) {bytes staged : List Byte} {rest : Nat}
    (hlen : staged.length ≤ s.scap) (hrest : 0 < staged.length → rest = 0) : (s.deliver bytes staged rest).Inv where
  staging :=
    { h.staging with
      olq_le := hlen
      olq_remain := fun h0 => by simp [hrest h0]
      unconf := by simp [hm] }
  modes := { h.modes with }
  memory := { h.memory with }

theorem State.Inv.pad (h : s.Inv) (hm : s.mode = .ready) (zeros : List Byte) :
    ((s.dstWrite zeros).closeRequest.pulse .eos).Inv where
  staging := { h.staging with olq_remain := fun _ => rfl, unconf := by simp [hm] }
  modes := { h.modes with }
  memory := { h.memory with }

/-! ### Every command, every event, every step -/

theorem Ran.inv {i : Instr} (h : Ran s i t) (hs : s.Inv) : t.Inv := by
  cases h with
  | reset => exact inv_resetBlock s
  | discarded => exact hs
  | faulted i c hc => exact hs.takeFault hc.cause_ne_none _
  | init hm hb h1 hmax => exact hs.init hm hb h1 hmax
  | pull req B hm hr hB =>
    exact (hs.srcAdvance _).pullWith (by simpa using hm) (answer_fits hr hB)
  | rdreq count d hm hr hd =>
    have := hs.staging.olq_le
    refine hs.deliver hm ?_ ?_ <;> rw [List.length_drop] <;> omega
  | encode m E e hm hb ho hE he =>
    have hlen : E.length ≤ s.scap := by
      rw [hE, length_encFrames]
      exact Nat.mul_le_mul_right _ hb
    refine (hs.deliver hm ?_ ?_).withPorts _ _ _ _ _ _ <;> rw [List.length_drop] <;> omega
  | pad hm => exact hs.pad hm _

theorem command_inv {w : Word} (h : command w s = .next t) (hs : s.Inv) : t.Inv := by
  rcases command_ran h with ⟨i, _, hran⟩ | ⟨_, rfl⟩ | ⟨_, rfl⟩
  · exact hran.inv hs
  · exact hs.takeFault (cause := .illegal) nofun w
  · exact hs

theorem Served.inv {e : HostEvent} (h : Served s e t) (hs : s.Inv) : t.Inv := by
  cases h with
  | reset => exact inv_resetBlock s
  | answered => exact hs.withPorts _ _ _ _ _ _
  | format addr data rate ch bits _ hm => exact (hs.withFormat hm rate ch bits).respond _
  | window addr w c i _ hc hi => exact (hs.writeOutblk hc hi w).respond _
  | command w u hu => exact (command_inv hu hs).respond _

theorem inv_step (hs : s.Inv) (h : step s = .next t) : t.Inv := by
  rcases step_next h with ⟨_, rfl⟩ | ⟨_, _, _, _, served⟩
  · exact hs
  · exact served.inv (hs.withPorts _ _ _ _ _ _)

theorem Reachable.inv (h : Reachable s) : s.Inv := by
  induction h with
  | reset p => exact inv_resetWith p
  | arrive s events answers _ ih => exact ih.withPorts _ _ _ _ _ _
  | step s t _ hstep ih => exact inv_step ih hstep

/-- Settles O49: the invariant by parts, each event and each command (R45). -/
theorem everyStepKeepsTheInvariant : Obligations.EveryStepKeepsTheInvariant :=
  fun _ _ => inv_step

/-- Settles O50: by induction on how the state is reached, with the whole invariant (R45). -/
theorem reachableStatesHaveTheStagingInvariant : Obligations.ReachableStatesHaveTheStagingInvariant :=
  fun _ h => h.inv.staging

/-- Settles O48: the build's reset state is the reset state of its parameters (R48). -/
theorem invariantHoldsAtReset : Obligations.InvariantHoldsAtReset :=
  ⟨inv_resetWith Config.params, inv_resetWith⟩

end Sys2Proof.Machine
end

section
/-! What the outputs, the windows, MODE, EOS and the format do along a command, an event and a step. -/

namespace Sys2Proof.Machine

variable {s t : State} {i : Instr} {e : HostEvent}

/-! ### Outputs -/

/-- A command delivers and pulses at the end of what was there, and gives no response of its own. -/
theorem Ran.outputs_grow (h : Ran s i t) : s.dst <+: t.dst ∧ s.events <+: t.events ∧ s.resp <+: t.resp := by
  cases h with
  | pull req B => exact ⟨by simp, by simp, by simp⟩
  | rdreq count d => exact ⟨List.prefix_append _ _, by simp, by simp⟩
  | encode m E e => exact ⟨List.prefix_append _ _, by simp, by simp⟩
  | pad => exact ⟨List.prefix_append _ _, List.prefix_append _ _, by simp⟩
  | reset | discarded | faulted | init => exact ⟨List.prefix_rfl, List.prefix_rfl, List.prefix_rfl⟩

theorem command_outputs_grow {w : Word} (h : command w s = .next t) :
    s.dst <+: t.dst ∧ s.events <+: t.events ∧ s.resp <+: t.resp := by
  rcases command_ran h with ⟨i, _, hran⟩ | ⟨_, rfl⟩ | ⟨_, rfl⟩
  · exact hran.outputs_grow
  · exact ⟨List.prefix_rfl, List.prefix_rfl, List.prefix_rfl⟩
  · exact ⟨List.prefix_rfl, List.prefix_rfl, List.prefix_rfl⟩

theorem Served.outputs_grow (h : Served s e t) : s.dst <+: t.dst ∧ s.events <+: t.events ∧ s.resp <+: t.resp := by
  cases h with
  | reset => exact ⟨List.prefix_rfl, List.prefix_rfl, List.prefix_rfl⟩
  | answered | format | window => exact ⟨List.prefix_rfl, List.prefix_rfl, List.prefix_append _ _⟩
  | command w u hu =>
    obtain ⟨hdst, hevents, hresp⟩ := command_outputs_grow hu
    exact ⟨hdst, hevents, hresp.trans (List.prefix_append _ _)⟩

/-- Settles O9: every command and every event appends to the three outputs, reset included (R222). -/
theorem outputsOnlyGrow : Obligations.OutputsOnlyGrow := by
  intro s t h
  rcases step_next h with ⟨_, rfl⟩ | ⟨e, rest, _, _, served⟩
  · exact ⟨List.prefix_rfl, List.prefix_rfl, List.prefix_rfl⟩
  · exact served.outputs_grow

/-! ### The windows -/

theorem Ran.mem_eq (h : Ran s i t) (hreset : i ≠ .reset) (hpull : ∀ req, i ≠ .pull req) : t.mem = s.mem := by
  cases h with
  | reset => exact absurd rfl hreset
  | pull req => exact absurd rfl (hpull req)
  | discarded | faulted | init | rdreq | encode | pad => rfl

/-- INBLK's lanes end below OUTBLK (R61), so the frames a PULL decodes change no byte of OUTBLK. -/
theorem readByte_pullWith_outblk {B : List Byte} (h : s.Inv) (hfit : B.length + s.ilq.length ≤ s.scap) {a : Nat}
    (ha : 0x20000000 ≤ a) : (s.pullWith B).mem.readByte a = s.mem.readByte a := by
  rw [State.pullWith_mem]
  refine decodeFrames_readByte_other _ _ _ _ _ _ fun i c hi hc => .inr ?_
  have := lane_end_le (hc.trans_le h.modes.ch_le) (hi.trans_le (pullFrames_le hfit))
  have := windowBytes_le s.params
  unfold inAddr
  omega

/-- Settles O24: PULL's lanes are INBLK's, and every other command keeps the memory (R42, R43). -/
theorem onlyPullWritesInblkAndNoCommandWritesOutblk :
    Obligations.OnlyPullWritesInblkAndNoCommandWritesOutblk := by
  intro i s t hs hreset h
  have hran := ran_of_exec h
  have frame (hpull : ∀ req, i ≠ .pull req) (a : Nat) : t.mem.readByte a = s.mem.readByte a := by
    rw [hran.mem_eq hreset hpull]
  refine ⟨fun a ha => ?_, frame⟩
  cases i with
  | pull req =>
    cases hran with
    | discarded | faulted => rfl
    | pull _ B hm hr hB =>
      rw [readByte_pullWith_outblk (hs.srcAdvance _) (answer_fits hr hB) ha, State.srcAdvance_mem]
  | init | reset | rdreq | encode | pad => exact frame nofun a

/-! ### MODE -/

/-- The transitions of MODE a command makes (R22). -/
theorem Ran.mode_changes (h : Ran s i t) (hne : t.mode ≠ s.mode) :
    (i = .reset ∧ t.mode = .unconf) ∨ (i = .init ∧ s.mode = .unconf ∧ t.mode = .ready) ∨
      (s.mode ≠ .failed ∧ t.mode = .failed ∧ t.errcmd = Sys2Proof.encode i) := by
  cases h with
  | reset => exact .inl ⟨rfl, rfl⟩
  | faulted i c hc => exact .inr (.inr ⟨hc.not_failed, rfl, rfl⟩)
  | init hm => exact .inr (.inl ⟨rfl, hm, rfl⟩)
  | pull => exact absurd (by simp) hne
  | discarded | rdreq | encode | pad => exact absurd rfl hne

theorem Served.mode_changes (h : Served s e t) (hne : t.mode ≠ s.mode) :
    (e.isReset = true ∧ t.mode = .unconf) ∨
      (e = .bus (.write 32 0x00000000 0x01000000) ∧ s.mode = .unconf ∧ t.mode = .ready) ∨
      (∃ w, e = .bus (.write 32 0x00000000 w) ∧ s.mode ≠ .failed ∧ t.mode = .failed ∧ t.errcmd = w) := by
  cases h with
  | reset => exact .inl ⟨rfl, rfl⟩
  | answered | format | window => exact absurd rfl hne
  | command w u hu =>
    rcases command_ran hu with ⟨i, rfl, hran⟩ | ⟨hm, rfl⟩ | ⟨_, rfl⟩
    · rcases hran.mode_changes hne with ⟨rfl, ht⟩ | ⟨rfl, hs, ht⟩ | ⟨hs, ht, hw⟩
      · exact .inl ⟨rfl, ht⟩
      · exact .inr (.inl ⟨rfl, hs, ht⟩)
      · exact .inr (.inr ⟨_, rfl, hs, ht, hw⟩)
    · exact .inr (.inr ⟨w, rfl, hm, rfl, rfl⟩)
    · exact absurd rfl hne

/-- Settles O28: the level by its definition, the transitions by what the served event is (R22, R193, R202). -/
theorem modeChangesOnlyByResetInitOrFault : Obligations.ModeChangesOnlyByResetInitOrFault := by
  refine ⟨fun s => by simp [State.irqErr], fun s t h hne => ?_⟩
  rcases step_next h with ⟨_, rfl⟩ | ⟨e, rest, hp, _, served⟩
  · exact absurd rfl hne
  · exact ⟨e, rest, hp, served.mode_changes hne⟩

/-! ### STATUS and EOS -/

/-- The four one-bit fields of STATUS at their places (R26). -/
theorem statusWord_bits (s : State) :
    s.statusWord.getLsbD 2 = s.eos ∧ s.statusWord.getLsbD 3 = s.ilqne ∧ s.statusWord.getLsbD 4 = s.olqne ∧
      s.statusWord.getLsbD 5 = s.rdact := by
  simp only [State.statusWord, BitVec.getLsbD_append]
  simp

/-- Bits 31:6 of STATUS are zero (R26). -/
theorem statusWord_high (s : State) : s.statusWord.extractLsb' 6 26 = 0 := by
  unfold State.statusWord
  repeat rw [BitVec.extractLsb'_append_eq_of_le (by decide)]
  rfl

/-- Settles O32: each field of the concatenation at its place (R26). -/
theorem statusFields : Obligations.StatusFields := by
  intro s
  obtain ⟨heos, hilq, holq, hrd⟩ := statusWord_bits s
  have hmode : s.statusWord.extractLsb' 0 2 = s.mode.code := BitVec.extractLsb'_append_eq_right
  refine ⟨?_, heos, ?_, ?_, ?_, statusWord_high s⟩
  · rw [hmode]
    cases s.mode <;> rfl
  · rw [hilq]; simp [State.ilqne, List.length_pos_iff]
  · rw [holq]; simp [State.olqne, List.length_pos_iff]
  · rw [hrd]; simp [State.rdact]

/-- What a command does to EOS: RESET clears it, PAD sets it (R44). -/
theorem Ran.eos (h : Ran s i t) :
    (i = .reset ∧ t.eos = false) ∨ (i = .pad ∧ s.mode = .ready ∧ t.eos = true) ∨ t.eos = s.eos := by
  cases h with
  | reset => exact .inl ⟨rfl, rfl⟩
  | pad hm => exact .inr (.inl ⟨rfl, hm, rfl⟩)
  | pull => exact .inr (.inr (by simp))
  | discarded | faulted | init | rdreq | encode => exact .inr (.inr rfl)

theorem Served.eos (h : Served s e t) :
    (e.isReset = true ∧ t.eos = false) ∨
      (e = .bus (.write 32 0x00000000 0x22000000) ∧ s.mode = .ready ∧ t.eos = true) ∨ t.eos = s.eos := by
  cases h with
  | reset => exact .inl ⟨rfl, rfl⟩
  | answered | format | window => exact .inr (.inr rfl)
  | command w u hu =>
    rcases command_ran hu with ⟨i, rfl, hran⟩ | ⟨_, rfl⟩ | ⟨_, rfl⟩
    · rcases hran.eos with ⟨rfl, ht⟩ | ⟨rfl, hm, ht⟩ | ht
      · exact .inl ⟨rfl, ht⟩
      · exact .inr (.inl ⟨rfl, hm, ht⟩)
      · exact .inr (.inr ht)
    · exact .inr (.inr rfl)
    · exact .inr (.inr rfl)

/-- A step that changes EOS serves a reset that clears it, or a PAD in READY that sets it. -/
theorem eos_of_step (h : step s = .next t) (hne : t.eos ≠ s.eos) :
    ∃ e rest, s.pending = e :: rest ∧ ((e.isReset = true ∧ t.eos = false) ∨
      (e = .bus (.write 32 0x00000000 0x22000000) ∧ s.mode = .ready ∧ t.eos = true)) := by
  rcases step_next h with ⟨_, rfl⟩ | ⟨e, rest, hp, _, served⟩
  · exact absurd rfl hne
  · rcases served.eos with hreset | hpad | heq
    · exact ⟨e, rest, hp, .inl hreset⟩
    · exact ⟨e, rest, hp, .inr hpad⟩
    · exact absurd heq hne

theorem srcAdvance_withEos (s : State) (b : Bool) (req : Nat) :
    ({ s with eos := b } : State).srcAdvance req = { s.srcAdvance req with eos := b } := by
  unfold State.srcAdvance
  split
  · rfl
  · dsimp only
    split <;> rfl

/-- No check reads EOS. -/
theorem Raises.withEos {c : Cause} (h : Raises s i c) (b : Bool) : Raises { s with eos := b } i c := by
  cases h with
  | initInReady hm => exact .initInReady hm
  | streamInUnconf i hi hr hm => exact .streamInUnconf i hi hr hm
  | initBits hm hb => exact .initBits hm hb
  | initChannels hm hb hc => exact .initChannels hm hb hc
  | pullTooLong req hm hr => exact .pullTooLong req hm hr
  | rdreqOpen count hm hr => exact .rdreqOpen count hm hr
  | encodeTooLong m hm hb => exact .encodeTooLong m hm hb
  | encodeStaged m hm hb ho => exact .encodeStaged m hm hb ho

/-- No command reads EOS: from states that differ there alone, the answers differ there at most. -/
theorem Ran.withEos (h : Ran s i t) (b : Bool) :
    ∃ t', Ran { s with eos := b } i t' ∧ t' = { t with eos := t'.eos } := by
  cases h with
  | reset => exact ⟨_, .reset, rfl⟩
  | discarded i hi hm => exact ⟨_, .discarded i hi hm, rfl⟩
  | faulted i c hc => exact ⟨_, .faulted i c (hc.withEos b), rfl⟩
  | init hm hb h1 hmax => exact ⟨_, .init hm hb h1 hmax, rfl⟩
  | pull req B hm hr hB => exact ⟨_, .pull req B hm hr hB, by rw [srcAdvance_withEos]; rfl⟩
  | rdreq count d hm hr hd => exact ⟨_, .rdreq count d hm hr hd, rfl⟩
  | encode m E e hm hb ho hE he => exact ⟨_, .encode m E e hm hb ho hE he, rfl⟩
  | pad hm => exact ⟨_, .pad hm, rfl⟩

/-- Settles O29: what sets and clears EOS by the step, where STATUS shows it, and that no command reads it (R44). -/
theorem eosIsStickyAndGatesNothing : Obligations.EosIsStickyAndGatesNothing := by
  refine ⟨fun s t h hs ht => ?_, fun s t h hs ht => ?_, fun s hm => ⟨_, exec_of_ran (.pad hm), rfl⟩,
    fun s => (statusFields s).2.1, fun i s t b h => ?_⟩
  · obtain ⟨e, rest, hp, ⟨hreset, _⟩ | ⟨_, _, hset⟩⟩ := eos_of_step h (by simp [hs, ht])
    · exact ⟨e, rest, hp, hreset⟩
    · simp [ht] at hset
  · obtain ⟨e, rest, hp, ⟨_, hclear⟩ | ⟨rfl, hm, _⟩⟩ := eos_of_step h (by simp [hs, ht])
    · simp [ht] at hclear
    · exact ⟨rest, hp, hm⟩
  · obtain ⟨t', hran, heq⟩ := (ran_of_exec h).withEos b
    exact ⟨t', exec_of_ran hran, heq⟩

/-! ### The format -/

/-- Only INIT in UNCONF latches a format, and only RESET clears one (R23). -/
theorem Ran.format_eq (h : Ran s i t) (hreset : i ≠ .reset) (hm : s.mode ≠ .unconf) :
    t.fmtRate = s.fmtRate ∧ t.fmtCh = s.fmtCh ∧ t.fmtBits = s.fmtBits ∧ t.ch = s.ch := by
  cases h with
  | reset => exact absurd rfl hreset
  | init hu => exact absurd hu hm
  | pull => simp
  | discarded | faulted | rdreq | encode | pad => exact ⟨rfl, rfl, rfl, rfl⟩

theorem Served.format_eq (h : Served s e t) (he : e.isReset = false) (hm : s.mode ≠ .unconf) :
    t.fmtRate = s.fmtRate ∧ t.fmtCh = s.fmtCh ∧ t.fmtBits = s.fmtBits ∧ t.ch = s.ch := by
  cases h with
  | reset => cases he
  | format _ _ _ _ _ _ hu => exact absurd hu hm
  | answered | window => exact ⟨rfl, rfl, rfl, rfl⟩
  | command w u hu =>
    rcases command_ran hu with ⟨i, rfl, hran⟩ | ⟨_, rfl⟩ | ⟨_, rfl⟩
    · exact hran.format_eq (by rintro rfl; cases he) hm
    · exact ⟨rfl, rfl, rfl, rfl⟩
    · exact ⟨rfl, rfl, rfl, rfl⟩

/-- Settles O30: outside UNCONF the format registers are not stored and INIT does not run (R29 to R31, R192). -/
theorem formatIsFixedOutsideUnconf : Obligations.FormatIsFixedOutsideUnconf := by
  intro s t e rest hp he hm h
  rcases step_next h with ⟨h0, _⟩ | ⟨e', rest', hp', _, served⟩
  · simp [hp] at h0
  · obtain ⟨rfl, rfl⟩ : e = e' ∧ rest = rest' := by simpa [hp] using hp'
    exact served.format_eq he hm

/-! ### Reset -/

/-- Settles O10: RESET completes in every mode with `resetBlock`, whose fields are known (R48, R222). -/
theorem resetLeavesTheResetState : Obligations.ResetLeavesTheResetState := by
  intro s
  refine ⟨s.resetBlock, exec_of_ran .reset, ?_⟩
  simp [regRead, State.irqErr, Memory.readByte]

end Sys2Proof.Machine
end

section
/-! What a read or a write of a register, and a read of a window word, does as a step; and FWANT's arithmetic. -/

namespace Sys2Proof.Machine

variable {s : State} {rest : List HostEvent}

/-! ### Registers -/

/-- No register shows what is pending. -/
theorem regRead_withPending (r : Reg) (s : State) (rest : List HostEvent) :
    regRead r { s with pending := rest } = regRead r s := by
  cases r <;> rfl

/-- A read at a register's address answers what the register reads (R24, R160). -/
theorem step_read_register {r : Reg} {v : Word} (hp : s.pending = .bus (.read 32 r.addr) :: rest)
    (hv : regRead r s = some v) : step s = .next { s with pending := rest, resp := s.resp ++ [.data v] } := by
  simp [step, stepBlock, hp, serve, transact, busRead, target_addr, regRead_withPending, hv, State.respond]

/-- A write at a register's address is a write to that register (R24, R161). -/
theorem step_write_register {r : Reg} {v : Word} (hp : s.pending = .bus (.write 32 r.addr v) :: rest) :
    step s = regWrite r v { s with pending := rest } := by
  simp [step, stepBlock, hp, serve, transact, busWrite, target_addr]

theorem formatWrite_unconf (stored : State) (hm : s.mode = .unconf) : formatWrite stored s = stored.respond .ok := by
  simp [formatWrite, hm]

/-- Settles O33: each offset is a register's, and the word listed for it is what the register reads (R24, R190). -/
theorem registerReadsAnswerTheirFields : Obligations.RegisterReadsAnswerTheirFields := by
  intro s off v rest hp hmem
  have register : ∃ r : Reg, r.offset = off ∧ regRead r s = some v := by
    simp only [List.mem_cons, Prod.mk.injEq, List.not_mem_nil, or_false] at hmem
    rcases hmem with ⟨rfl, rfl⟩ | ⟨rfl, rfl⟩ | ⟨rfl, rfl⟩ | ⟨rfl, rfl⟩ | ⟨rfl, rfl⟩ | ⟨rfl, rfl⟩ | ⟨rfl, rfl⟩ |
      ⟨rfl, rfl⟩ | ⟨rfl, rfl⟩ | ⟨rfl, rfl⟩ | ⟨rfl, rfl⟩ | ⟨rfl, rfl⟩ | ⟨rfl, rfl⟩ | ⟨rfl, rfl⟩ | ⟨rfl, rfl⟩
    · exact ⟨.status, rfl, rfl⟩
    · exact ⟨.errcode, rfl, by unfold regRead; cases s.errcode <;> rfl⟩
    · exact ⟨.errcmd, rfl, rfl⟩
    · exact ⟨.fmtRate, rfl, rfl⟩
    · exact ⟨.fmtCh, rfl, rfl⟩
    · exact ⟨.fmtBits, rfl, rfl⟩
    · exact ⟨.bpf, rfl, rfl⟩
    · exact ⟨.blkcap, rfl, rfl⟩
    · exact ⟨.chcap, rfl, rfl⟩
    · exact ⟨.remain, rfl, rfl⟩
    · exact ⟨.fwant, rfl, rfl⟩
    · exact ⟨.nin, rfl, rfl⟩
    · exact ⟨.klast, rfl, rfl⟩
    · exact ⟨.ilqlvl, rfl, rfl⟩
    · exact ⟨.olqlvl, rfl, rfl⟩
  obtain ⟨r, rfl, hv⟩ := register
  exact step_read_register hp hv

/-- Settles O38: each of the three addresses is a format register's, and UNCONF stores (R29 to R31). -/
theorem formatRegistersStoreInUnconf : Obligations.FormatRegistersStoreInUnconf := by
  intro s v rest hm
  refine ⟨fun hp => ?_, fun hp => ?_, fun hp => ?_⟩
  · exact (step_write_register (r := .fmtRate) hp).trans (congrArg Host.Outcome.next (formatWrite_unconf _ hm))
  · exact (step_write_register (r := .fmtCh) hp).trans (congrArg Host.Outcome.next (formatWrite_unconf _ hm))
  · exact (step_write_register (r := .fmtBits) hp).trans (congrArg Host.Outcome.next (formatWrite_unconf _ hm))

/-! ### Window words -/

/-- The channel of the word `c * BLK + i` of a window (R62). -/
theorem lane_word_div {p : Params} {c i : Nat} (hi : i < p.blk) : (c * p.blk + i) / p.blk = c := by
  rw [Nat.mul_comm, Nat.mul_add_div p.blk_pos, Nat.div_eq_of_lt hi, Nat.add_zero]

/-- What `target` looks at in the address `a` of a lane of region `k` (R61, R62). -/
theorem lane_address_parts {p : Params} {a c i k : Nat} (hc : c < p.chmax) (hi : i < p.blk) (hk : k < 16)
    (ha : a = k * 2 ^ 28 + 4 * (c * p.blk + i)) :
    ((BitVec.ofNat 32 a).extractLsb' 0 2).toNat = 0 ∧ regionOf (BitVec.ofNat 32 a) = k ∧
      offsetOf (BitVec.ofNat 32 a) = 4 * (c * p.blk + i) ∧ 4 * (c * p.blk + i) < windowBytes p := by
  have hend := lane_end_le hc hi
  have hwin := windowBytes_le p
  rw [lowBits_eq, regionOf_eq, offsetOf_eq, BitVec.toNat_ofNat]
  omega

theorem target_inAddr {p : Params} {c i : Nat} (hc : c < p.chmax) (hi : i < p.blk) :
    target p (BitVec.ofNat 32 (inAddr p c i)) = .inblk c i := by
  obtain ⟨hlow, hregion, hoffset, hlt⟩ :=
    lane_address_parts (a := inAddr p c i) (k := 1) hc hi (by decide) (by unfold inAddr; omega)
  simp [target, hlow, hregion, hoffset, hlt, lane_word_div hi, Nat.mod_eq_of_lt hi]

theorem target_outAddr {p : Params} {c i : Nat} (hc : c < p.chmax) (hi : i < p.blk) :
    target p (BitVec.ofNat 32 (outAddr p c i)) = .outblk c i := by
  obtain ⟨hlow, hregion, hoffset, hlt⟩ :=
    lane_address_parts (a := outAddr p c i) (k := 2) hc hi (by decide) (by unfold outAddr; omega)
  simp [target, hlow, hregion, hoffset, hlt, lane_word_div hi, Nat.mod_eq_of_lt hi]

/-- A read at a window word's address reads that word (R160). -/
theorem step_read_window {a c i : Nat} (hc : c < s.params.chmax) (hi : i < s.params.blk)
    (ha : a = inAddr s.params c i ∨ a = outAddr s.params c i)
    (hp : s.pending = .bus (.read 32 (BitVec.ofNat 32 a)) :: rest) :
    step s = .next (windowRead a { s with pending := rest }) := by
  rcases ha with rfl | rfl
  · simp [step, stepBlock, hp, serve, transact, busRead, target_inAddr hc hi]
  · simp [step, stepBlock, hp, serve, transact, busRead, target_outAddr hc hi]

/-- Settles O37: the address selects the word, and the word has no value (R48, U2). -/
theorem unwrittenWordsReadAsFreeValues : Obligations.UnwrittenWordsReadAsFreeValues := by
  intro s a c i rest hc hi ha hnone hp
  rw [step_read_window hc hi ha hp]
  simp [windowRead, hnone, State.respond]

/-! ### FWANT -/

theorem fwant_of_ready (hm : s.mode = .ready) : s.fwant = min (ceildiv s.remain.toNat s.bpf) s.params.blk := by
  simp [State.fwant, hm]

theorem fwant_of_not_ready (hm : s.mode ≠ .ready) : s.fwant = 0 := by
  unfold State.fwant
  split
  · exact absurd ‹_› hm
  · rfl
  · rfl

theorem fwant_le_blk (s : State) : s.fwant ≤ s.params.blk := by
  by_cases hm : s.mode = .ready
  · rw [fwant_of_ready hm]
    exact min_le_right _ _
  · rw [fwant_of_not_ready hm]
    exact Nat.zero_le _

/-- The model's rounded-up division is the library's (R10). -/
theorem ceildiv_eq_ceilDiv (a b : Nat) : ceildiv a b = a ⌈/⌉ b := (Nat.ceilDiv_eq_add_pred_div a b).symm

/-- Settles O34: FWANT is at most BLK, and a rounded-up quotient is the least that covers (R35). -/
theorem fwantCoversRemain : Obligations.FwantCoversRemain := by
  intro s
  refine ⟨fwant_of_not_ready, ⟨_, rfl, ?_⟩, fun hm hch => ?_⟩
  · have := fwant_le_blk s
    have := params_blk_le s.params
    rw [BitVec.toNat_ofNat, Nat.mod_eq_of_lt (by omega)]
  · have hbpf : 0 < s.bpf := by unfold State.bpf; omega
    have hle : s.bpf ≤ 510 := by have := s.ch.isLt; unfold State.bpf; omega
    have hrem := s.remain.isLt
    refine ⟨fwant_of_ready hm, by omega, fun hlt => ?_, fun hpos => ?_⟩
    · have hq : s.fwant = s.remain.toNat ⌈/⌉ s.bpf := by
        rw [fwant_of_ready hm, ceildiv_eq_ceilDiv] at hlt ⊢
        omega
      rw [hq, Nat.mul_comm]
      exact le_smul_ceilDiv hbpf
    · have hq : s.fwant ≤ s.remain.toNat ⌈/⌉ s.bpf := by
        rw [fwant_of_ready hm, ceildiv_eq_ceilDiv]
        exact min_le_left _ _
      have hcover := mt (ceilDiv_le_iff_le_smul hbpf).mpr (by omega : ¬ s.remain.toNat ⌈/⌉ s.bpf ≤ s.fwant - 1)
      rw [smul_eq_mul, Nat.mul_comm] at hcover
      exact Nat.lt_of_not_le hcover

end Sys2Proof.Machine
end

section
/-! The memory map's windows, the answer of a read, and the source's contract (R61, R62, R66, R160). -/

namespace Sys2Proof.Machine

variable {s : State}

/-- Settles O35: the window addresses are `inAddr` and `outAddr`, and those select their words (R61, R62). -/
theorem windowAddressesSelectTheirWords : Obligations.WindowAddressesSelectTheirWords :=
  fun _ _ _ hc hi => ⟨target_inAddr hc hi, target_outAddr hc hi⟩

/-! ### Reads -/

/-- A window word answers data, stored or free, and at most a free value is used up (R160, U2). -/
theorem windowRead_answers (a : Nat) (s : State) :
    ∃ w d, windowRead a s = { s.respond (.data w) with draws := d } := by
  unfold windowRead
  split
  · exact ⟨_, s.draws, rfl⟩
  · exact ⟨_, s.draws + 1, rfl⟩

/-- A read answers data or the error response, and at most a free value is used up (R160, R162). -/
theorem busRead_answers (width : Nat) (addr : Word) (s : State) :
    ∃ r d, r ≠ .ok ∧ busRead width addr s = { s.respond r with draws := d } := by
  have window (a : Nat) : ∃ r d, r ≠ .ok ∧ windowRead a s = { s.respond r with draws := d } := by
    obtain ⟨w, d, h⟩ := windowRead_answers a s
    exact ⟨.data w, d, nofun, h⟩
  unfold busRead
  split
  · exact ⟨.busError, s.draws, nofun, rfl⟩
  · split
    · split
      · exact ⟨.data _, s.draws, nofun, rfl⟩
      · exact ⟨.busError, s.draws, nofun, rfl⟩
    · exact window _
    · exact window _
    · exact ⟨.busError, s.draws, nofun, rfl⟩

/-- A read that is pending first is what the step serves (R69). -/
theorem step_read {width : Nat} {addr : Word} {rest : List HostEvent}
    (hp : s.pending = .bus (.read width addr) :: rest) :
    step s = .next (busRead width addr { s with pending := rest }) := by
  simp [step, stepBlock, hp, serve, transact]

/-- Settles O40: the step is the read, and a read only answers (R69, R160). -/
theorem readsHaveNoSideEffect : Obligations.ReadsHaveNoSideEffect := by
  intro s width addr rest hp
  obtain ⟨r, d, hr, hread⟩ := busRead_answers width addr { s with pending := rest }
  exact ⟨_, r, step_read hp, by rw [hread]; rfl, hr⟩

/-! ### The source -/

theorem srcAnswer_never {req : Nat} {rest : List SrcAnswer} (hreq : req ≠ 0) (h : s.source = .never :: rest) :
    s.srcAnswer req = none := by
  simp [State.srcAnswer, hreq, h]

/-- PULL has no next state while its request is not answered (R66, U6). -/
theorem exec_pull_unanswered {req : Imm24} (hm : s.mode = .ready) (hfit : req.toNat + s.ilq.length ≤ s.scap)
    (h : s.srcAnswer req.toNat = none) : exec (.pull req) s = .fault .sourceNeverAnswers := by
  simp [exec, execPull, readyOnly_ready hm, Nat.not_lt.mpr hfit, h]

/-- Settles O14: an offer is cut to the request, so one that fits is given whole; no answer, no PULL (R66, U6). -/
theorem sourceAnswersAtMostWhatIsAsked : Obligations.SourceAnswersAtMostWhatIsAsked := by
  refine ⟨fun s req B h => srcAnswer_length h, fun s req B rest hB hs => ?_, fun s => srcAnswer_zero,
    fun req s rest hm hfit hreq hs => exec_pull_unanswered hm hfit (srcAnswer_never hreq hs)⟩
  rw [srcAnswer_bytes hs, List.take_of_length_le hB]

end Sys2Proof.Machine
end

section
/-! Command words by their two fields: what the encoder, the decoder, the rows and the step of a word at CMD say of
`word[31:24]` and `word[23:0]` (R81 to R85). -/

namespace Sys2Proof.Machine

variable {w : Word} {i : Instr} {r : Row} {s : State}

/-! ### The two fields of a word -/

theorem opField_encode (i : Instr) : opField (encode i) = opcode i := (Laws.Fields.fields_append _ _).1

theorem immField_encode (i : Instr) : immField (encode i) = lowField i := (Laws.Fields.fields_append _ _).2

theorem eq_append_iff_fields {op : Byte} {low : Imm24} : w = op ++ low ↔ opField w = op ∧ immField w = low := by
  refine ⟨?_, fun ⟨hop, hlow⟩ => (word_of_fields hop hlow).symm⟩
  rintro rfl
  exact Laws.Fields.fields_append op low

/-- Masking a word masks each of its fields. -/
theorem and_eq_append_iff {mask : Word} {op : Byte} {low : Imm24} :
    w &&& mask = op ++ low ↔ opField w &&& opField mask = op ∧ immField w &&& immField mask = low := by
  rw [eq_append_iff_fields, opField, immField, BitVec.extractLsb'_and, BitVec.extractLsb'_and]
  rfl

/-- The mask of format Z compares both fields (R83). -/
theorem and_formatZ_mask_eq_iff {op : Byte} :
    w &&& 0xFFFFFFFF = op ++ 0#24 ↔ opField w = op ∧ immField w = 0 := by
  have hop : opField 0xFFFFFFFF = BitVec.allOnes 8 := by decide
  have himm : immField 0xFFFFFFFF = BitVec.allOnes 24 := by decide
  rw [and_eq_append_iff, hop, himm, BitVec.and_allOnes, BitVec.and_allOnes]
  rfl

/-- The mask of format I compares the opcode alone (R83). -/
theorem and_formatI_mask_eq_iff {op : Byte} : w &&& 0xFF000000 = op ++ 0#24 ↔ opField w = op := by
  have hop : opField 0xFF000000 = BitVec.allOnes 8 := by decide
  have himm : immField 0xFF000000 = 0#24 := by decide
  rw [and_eq_append_iff, hop, himm, BitVec.and_allOnes, BitVec.and_zero]
  exact and_iff_left rfl

/-! ### The decoder -/

/-- The decoder finds every command in its own word, whatever the operand (R81, R83). -/
theorem decode_encode (i : Instr) : decode (encode i) = .cmd i := by
  unfold decode decodeZ
  rw [opField_encode, immField_encode]
  cases i <;> rfl

/-- What the decoder reads of a word: the opcode and the operand field of the command (R81, R83). -/
theorem decode_eq_cmd_iff : decode w = .cmd i ↔ opField w = opcode i ∧ immField w = lowField i := by
  constructor
  · intro h
    rw [← encode_of_decode h]
    exact ⟨opField_encode i, immField_encode i⟩
  · rintro ⟨hop, hlow⟩
    rw [← word_of_fields hop hlow]
    exact decode_encode i

/-- Settles O1: `decode` finds what `encode` put in the two fields, and those two fields are the whole word. -/
theorem decodeEncodeInverse : Obligations.DecodeEncodeInverse :=
  ⟨decode_encode, fun _ _ => encode_of_decode⟩

/-- Settles O3: six of the words are encodings; the other two have a nonzero field and an unknown opcode (R85). -/
theorem writtenWordsDecode : Obligations.WrittenWordsDecode :=
  ⟨decode_encode .init, decode_encode .reset, decode_encode (.pull 13), decode_encode (.rdreq 12),
    decode_encode (.encode 3), decode_encode .pad, ⟨.nonzeroField 0x22 1, rfl⟩, ⟨.unknownOpcode 0, rfl⟩⟩

/-! ### The rows -/

/-- A row compares the opcode, and in format Z the field below it too (R81, R83). -/
theorem spells_iff_fields (hr : r ∈ rows) :
    r.spells w = true ↔ opField w = r.op ∧ (r.format = .z → immField w = 0) := by
  have byFormat : ∀ r ∈ rows, r.pattern = r.op ++ 0#24 ∧
      (r.format = .z ∧ r.mask = 0xFFFFFFFF ∨ r.format = .i ∧ r.mask = 0xFF000000) := by decide
  unfold Row.spells
  rw [beq_iff_eq]
  obtain ⟨hpat, ⟨hz, hmask⟩ | ⟨hi, hmask⟩⟩ := byFormat r hr
  · rw [hpat, hmask, and_formatZ_mask_eq_iff]
    simp [hz]
  · rw [hpat, hmask, and_formatI_mask_eq_iff]
    simp [hi]

/-- Every command has its row. -/
theorem exists_row (i : Instr) : ∃ r ∈ rows, r.op = opcode i ∧ (r.format = .z → lowField i = 0) := by
  cases i <;> simp [rows, opcode, lowField]

/-- Every row has its commands: one for each operand the row's format admits. -/
theorem exists_command_of_row (hr : r ∈ rows) {low : Imm24} (hlow : r.format = .z → low = 0) :
    ∃ i, opcode i = r.op ∧ lowField i = low := by
  simp only [rows, List.mem_cons, List.not_mem_nil, or_false] at hr
  rcases hr with rfl | rfl | rfl | rfl | rfl | rfl
  · exact ⟨.init, rfl, (hlow rfl).symm⟩
  · exact ⟨.reset, rfl, (hlow rfl).symm⟩
  · exact ⟨.pull low, rfl, rfl⟩
  · exact ⟨.rdreq low, rfl, rfl⟩
  · exact ⟨.encode low, rfl, rfl⟩
  · exact ⟨.pad, rfl, (hlow rfl).symm⟩

/-- The decoder and the table accept the same words (R83, R85). -/
theorem decodes_iff_spelled : (∃ i, decode w = .cmd i) ↔ ∃ r ∈ rows, r.spells w = true := by
  constructor
  · rintro ⟨i, hi⟩
    obtain ⟨hop, himm⟩ := decode_eq_cmd_iff.mp hi
    obtain ⟨r, hr, hrop, hlow⟩ := exists_row i
    exact ⟨r, hr, (spells_iff_fields hr).mpr ⟨hop.trans hrop.symm, fun hz => himm.trans (hlow hz)⟩⟩
  · rintro ⟨r, hr, hsp⟩
    obtain ⟨hop, hz⟩ := (spells_iff_fields hr).mp hsp
    obtain ⟨i, hiop, hilow⟩ := exists_command_of_row hr hz
    exact ⟨i, decode_eq_cmd_iff.mpr ⟨hop.trans hiop.symm, hilow.symm⟩⟩

/-- No two rows have one opcode, so no word is spelled twice (R83). -/
theorem rows_do_not_overlap {r' : Row} (hr : r ∈ rows) (hr' : r' ∈ rows) (h : r.spells w = true)
    (h' : r'.spells w = true) : r = r' := by
  have opsDiffer : ∀ r ∈ rows, ∀ r' ∈ rows, r.op = r'.op → r = r' := by decide
  obtain ⟨hop, -⟩ := (spells_iff_fields hr).mp h
  obtain ⟨hop', -⟩ := (spells_iff_fields hr').mp h'
  exact opsDiffer r hr r' hr' (hop.symm.trans hop')

/-- A row of format Z and the decoder compare the same fields. -/
theorem formatZ_row_iff_decode {op : Byte} (hop : opcode i = op) (hlow : lowField i = 0) :
    w &&& 0xFFFFFFFF = op ++ 0#24 ↔ decode w = .cmd i := by
  rw [and_formatZ_mask_eq_iff, decode_eq_cmd_iff, hop, hlow]

/-- A row of format I and the decoder compare the same field, when the command's operand is the word's. -/
theorem formatI_row_iff_decode {op : Byte} (hop : opcode i = op) (hlow : lowField i = immField w) :
    w &&& 0xFF000000 = op ++ 0#24 ↔ decode w = .cmd i := by
  rw [and_formatI_mask_eq_iff, decode_eq_cmd_iff, hop, hlow]
  exact (and_iff_left rfl).symm

/-- Settles O2: the masks compare the fields the decoder reads, and the opcodes of the rows differ. -/
theorem matchAndMaskSpellTheSixCommands : Obligations.MatchAndMaskSpellTheSixCommands :=
  ⟨fun _ => ⟨formatZ_row_iff_decode (op := 0x01) rfl rfl, formatZ_row_iff_decode (op := 0x02) rfl rfl,
      formatI_row_iff_decode (op := 0x10) rfl rfl, formatI_row_iff_decode (op := 0x20) rfl rfl,
      formatI_row_iff_decode (op := 0x21) rfl rfl, formatZ_row_iff_decode (op := 0x22) rfl rfl⟩,
    fun _ => decodes_iff_spelled, fun _ _ hr _ hr' => rows_do_not_overlap hr hr'⟩

/-! ### The step of a word written to CMD -/

theorem command_of_decode (h : decode w = .cmd i) : command w s = exec i s := by
  rw [command, h]

/-- A word no row spells raises ILLEGAL outside FAILED (R85). -/
theorem command_of_not_spelled (hw : ∀ r ∈ rows, w &&& r.mask ≠ r.pattern) (hm : s.mode ≠ .failed) :
    command w s = .next (s.takeFault .illegal w) := by
  cases hd : decode w with
  | cmd i =>
    obtain ⟨r, hr, hsp⟩ := decodes_iff_spelled.mp ⟨i, hd⟩
    exact absurd (beq_iff_eq.mp hsp) (hw r hr)
  | illegal why =>
    cases hmode : s.mode with
    | failed => exact absurd hmode hm
    | unconf | ready => simp [command, hd, hmode]

/-- A write to CMD is the word's command, answered `ok` (R84, R161). -/
theorem step_write_cmd {rest : List HostEvent} (hp : s.pending = .bus (.write 32 0x00000000 w) :: rest) :
    step s = thenRespond .ok (command w { s with pending := rest }) :=
  step_write_register (r := .cmd) hp

/-- Settles O4: the decoder rejects what no row spells, and a row spells only its own opcode and format (R85). -/
theorem illegalWordsRaiseIllegal : Obligations.IllegalWordsRaiseIllegal := by
  refine ⟨fun s w rest hp hm hw => ?_, fun w hop r hr hsp => ?_, fun w hop himm r hr hsp => ?_⟩
  · rw [step_write_cmd hp, command_of_not_spelled (s := { s with pending := rest }) hw hm]
    rfl
  · have opcodes : ∀ r ∈ rows, r.op ∈ [0x01#8, 0x02#8, 0x10#8, 0x20#8, 0x21#8, 0x22#8] := by decide
    obtain ⟨hrop, -⟩ := (spells_iff_fields hr).mp (beq_iff_eq.mpr hsp)
    have hmem := opcodes r hr
    rw [← hrop] at hmem
    exact hop hmem
  · have formatZ : ∀ r ∈ rows, r.op ∈ [0x01#8, 0x02#8, 0x22#8] → r.format = .z := by decide
    obtain ⟨hrop, hz⟩ := (spells_iff_fields hr).mp (beq_iff_eq.mpr hsp)
    exact himm (hz (formatZ r hr (hrop ▸ hop)))

/-- Settles O5: the write reaches CMD, and there the decoded command runs (R84, R25). -/
theorem stepRunsTheDecodedCommand : Obligations.StepRunsTheDecodedCommand := by
  intro s w i rest hp hd
  rw [step_write_cmd hp, command_of_decode hd]

end Sys2Proof.Machine
end

section
/-! INIT in every mode, and what INIT, RDREQ, ENCODE and PAD leave unchanged (R100, R140, R145, R150, R193). -/

namespace Sys2Proof.Machine

variable {s t : State} {i : Instr}

/-! ### INIT -/

/-- A channel count in range fits the eight bits of CH (R6, R100). -/
theorem toNat_latched_ch {p : Params} {ch : Word} (hmax : ch.toNat ≤ p.chmax) :
    (ch.extractLsb' 0 8).toNat = ch.toNat := by
  have := p.chmax_le
  rw [BitVec.extractLsb'_toNat, Nat.shiftRight_zero, Nat.mod_eq_of_lt (by omega)]

theorem formatWrite_ready (stored : State) (hm : s.mode = .ready) : formatWrite stored s = s.respond .busError := by
  simp [formatWrite, hm]

/-- In READY the three format registers are read-only (R29 to R31). -/
theorem regWrite_format_ready {r : Reg} (hr : r ∈ [.fmtRate, .fmtCh, .fmtBits]) (v : Word) (hm : s.mode = .ready) :
    regWrite r v s = .next (s.respond .busError) := by
  simp only [List.mem_cons, List.not_mem_nil, or_false] at hr
  rcases hr with rfl | rfl | rfl <;> exact congrArg Host.Outcome.next (formatWrite_ready _ hm)

/-- Settles O11: each failing check is the fault of its `Raises` case; a format that passes them is latched (R100). -/
theorem initLatchesTheFormatOrFaults : Obligations.InitLatchesTheFormatOrFaults := by
  intro s
  refine ⟨fun hm => (Raises.initInReady hm).exec_eq, exec_of_failed nofun,
    fun hm hb => (Raises.initBits hm hb).exec_eq, fun hm hb hc => (Raises.initChannels hm hb hc).exec_eq,
    fun hm hb h1 hmax => ?_⟩
  have hch := toNat_latched_ch hmax
  refine ⟨_, exec_of_ran (.init hm hb h1 hmax), rfl, rfl, hch, ?_, fun r v hr => regWrite_format_ready hr v rfl⟩
  simp only [regRead, State.bpf, hch]

/-! ### Frames -/

/-- INIT, RDREQ, ENCODE and PAD write no field but MODE, CH, the error registers and those of the output side. -/
theorem Ran.frame_of_not_pull (h : Ran s i t) (hreset : i ≠ .reset) (hpull : ∀ req, i ≠ .pull req) :
    t = { s with
      mode := t.mode, ch := t.ch, errcode := t.errcode, errcmd := t.errcmd, remain := t.remain, eos := t.eos,
      olq := t.olq, dst := t.dst, events := t.events, draws := t.draws } := by
  cases h with
  | reset => exact absurd rfl hreset
  | pull req => exact absurd rfl (hpull req)
  | discarded | faulted | init | rdreq | encode | pad => rfl

/-- The error registers are written by fault entry and by RESET alone (R193, R101). -/
theorem Ran.error_eq (h : Ran s i t) (hreset : i ≠ .reset) (hm : t.mode ≠ .failed) :
    t.errcode = s.errcode ∧ t.errcmd = s.errcmd := by
  cases h with
  | reset => exact absurd rfl hreset
  | faulted => exact absurd rfl hm
  | pull => simp
  | discarded | init | rdreq | encode | pad => exact ⟨rfl, rfl⟩

theorem Ran.ch_eq (h : Ran s i t) (hreset : i ≠ .reset) (hinit : i ≠ .init) : t.ch = s.ch := by
  cases h with
  | reset => exact absurd rfl hreset
  | init => exact absurd rfl hinit
  | pull => simp
  | discarded | faulted | rdreq | encode | pad => rfl

/-- Only PULL and PAD pulse, and only PAD sets EOS (R44, R200, R201). -/
theorem Ran.eos_events_eq (h : Ran s i t) (hreset : i ≠ .reset) (hpull : ∀ req, i ≠ .pull req) (hpad : i ≠ .pad) :
    t.eos = s.eos ∧ t.events = s.events := by
  cases h with
  | reset => exact absurd rfl hreset
  | pull req => exact absurd rfl (hpull req)
  | pad => exact absurd rfl hpad
  | discarded | faulted | init | rdreq | encode => exact ⟨rfl, rfl⟩

theorem Ran.output_eq_of_init (h : Ran s .init t) :
    t.dst = s.dst ∧ t.olq = s.olq ∧ t.remain = s.remain ∧ t.draws = s.draws := by
  cases h with
  | discarded | faulted | init => exact ⟨rfl, rfl, rfl, rfl⟩

theorem Ran.olq_draws_eq_of_pad (h : Ran s .pad t) : t.olq = s.olq ∧ t.draws = s.draws := by
  cases h with
  | discarded | faulted | pad => exact ⟨rfl, rfl⟩

/-- Settles O23: the fields no such command writes, then each written field by the commands that write it. -/
theorem nonPullCommandsFrame : Obligations.NonPullCommandsFrame := by
  intro i s t hpull hreset h
  have hran := ran_of_exec h
  have frame := hran.frame_of_not_pull hreset hpull
  refine ⟨fun a => by rw [hran.mem_eq hreset hpull], (congrArg State.scratch frame :), (congrArg State.ilq frame :),
    (congrArg State.nin frame :), (congrArg State.klast frame :), (congrArg State.fmtRate frame :),
    (congrArg State.fmtCh frame :), (congrArg State.fmtBits frame :), exec_params h, (congrArg State.resp frame :),
    (congrArg State.pending frame :), (congrArg State.source frame :), hran.error_eq hreset, hran.ch_eq hreset,
    hran.eos_events_eq hreset hpull, ?_, ?_⟩
  · rintro rfl
    exact hran.output_eq_of_init
  · rintro rfl
    exact hran.olq_draws_eq_of_pad

end Sys2Proof.Machine
end

section
/-! Whole frames and the bytes after them: what a byte sequence leaves once its whole frames are taken, and that taking
them in portions decodes the same frames (R113, R118). -/

namespace Sys2Proof.Machine

/-- The bytes of `A` after its last whole frame of `bpf` bytes (R115). -/
def leftover (bpf : Nat) (A : List Byte) : List Byte := A.drop (A.length / bpf * bpf)

variable {ch bpf n : Nat} {A D X : List Byte}

@[simp] theorem length_leftover (bpf : Nat) (A : List Byte) : (leftover bpf A).length = A.length % bpf := by
  rw [leftover, List.length_drop, Nat.mod_eq_sub_div_mul]

/-- A sequence is its whole frames and then its leftover. -/
theorem whole_append_leftover (bpf : Nat) (A : List Byte) :
    ∃ D, A = D ++ leftover bpf A ∧ D.length = A.length / bpf * bpf :=
  ⟨A.take (A.length / bpf * bpf), (List.take_append_drop _ _).symm,
    List.length_take_of_le (Nat.div_mul_le_self _ _)⟩

theorem leftover_of_short (h : A.length / bpf = 0) : leftover bpf A = A := by
  simp [leftover, h]

/-- Whole frames put in front of a sequence do not change its leftover. -/
theorem leftover_append (hD : D.length = n * bpf) (X : List Byte) : leftover bpf (D ++ X) = leftover bpf X := by
  have hlen : (D ++ X).length / bpf * bpf = D.length + X.length / bpf * bpf := by
    rcases Nat.eq_zero_or_pos bpf with rfl | hpos
    · simp [hD]
    · rw [List.length_append, hD, Nat.add_comm, Nat.add_mul_div_right _ _ hpos, Nat.add_mul, Nat.add_comm]
  rw [leftover, hlen, List.drop_length_add_append, leftover]

/-- Both bytes of every lane of a whole frame lie in the sequence (R64). -/
theorem lane_lt_length {i c : Nat} (hi : i < A.length / (2 * ch)) (hc : c < ch) :
    i * (2 * ch) + 2 * c + 1 < A.length := by
  have hframe : (i + 1) * (2 * ch) ≤ A.length := (Nat.le_div_iff_mul_le (by omega)).mp hi
  rw [Nat.succ_mul] at hframe
  omega

/-- A lane inside the sequence is decoded from its two bytes there (R113). -/
theorem laneDecode_of_lt {i c : Nat} (h : i * bpf + 2 * c + 1 < A.length) :
    ∃ lo hi, A[i * bpf + 2 * c]? = some lo ∧ A[i * bpf + 2 * c + 1]? = some hi ∧
      laneDecode bpf A i c = dec16 lo hi := by
  refine ⟨_, _, List.getElem?_eq_getElem (Nat.lt_of_succ_lt h), List.getElem?_eq_getElem h, ?_⟩
  rw [laneDecode, List.getD_eq_getElem _ _ h, List.getD_eq_getElem _ _ (Nat.lt_of_succ_lt h)]

/-- The lanes of whole frames do not depend on what follows the frames. -/
theorem laneDecode_append_left {i c : Nat} (hi : i < A.length / (2 * ch)) (hc : c < ch) (X : List Byte) :
    laneDecode (2 * ch) (A ++ X) i c = laneDecode (2 * ch) A i c := by
  have := lane_lt_length hi hc
  rw [laneDecode, List.getD_append _ _ _ _ (by omega), List.getD_append _ _ _ _ this, laneDecode]

/-- The lanes after `n` whole frames are those of the bytes after them. -/
theorem laneDecode_append_right (hD : D.length = n * bpf) (X : List Byte) (i c : Nat) :
    laneDecode bpf (D ++ X) (n + i) c = laneDecode bpf X i c := by
  have hpos : (n + i) * bpf + 2 * c = D.length + (i * bpf + 2 * c) := by rw [hD, Nat.add_mul, Nat.add_assoc]
  rw [laneDecode, hpos, Nat.add_assoc, List.getD_append_right _ _ _ _ (by omega),
    List.getD_append_right _ _ _ _ (by omega), Nat.add_sub_cancel_left, Nat.add_sub_cancel_left, laneDecode]

theorem decodedFrames_of_short (h : A.length / (2 * ch) = 0) : decodedFrames ch A = [] := by
  simp [decodedFrames, h]

/-- Decoding is frame by frame: whole frames in front are decoded by themselves, and so is the rest. -/
theorem decodedFrames_append (hD : D.length = n * (2 * ch)) (X : List Byte) :
    decodedFrames ch (D ++ X) = decodedFrames ch D ++ decodedFrames ch X := by
  rcases Nat.eq_zero_or_pos ch with rfl | hpos
  · simp [decodedFrames]
  · have hn : D.length / (2 * ch) = n := by rw [hD, Nat.mul_div_cancel _ (by omega)]
    have hlen : (D ++ X).length / (2 * ch) = n + X.length / (2 * ch) := by
      rw [List.length_append, hD, Nat.add_comm, Nat.add_mul_div_right _ _ (by omega), Nat.add_comm]
    simp only [decodedFrames, hlen, hn, List.range_add, List.map_append, List.map_map]
    congr 1
    · refine List.map_congr_left fun i hi => List.map_congr_left fun c hc => ?_
      rw [laneDecode_append_left (by simpa [hn] using hi) (by simpa using hc)]
    · refine List.map_congr_left fun i _ => List.map_congr_left fun c _ => ?_
      rw [laneDecode_append_right hD]

/-- The frames of a sequence that arrives in two portions: those of the first, then those of its leftover and the
second (R118). -/
theorem decodedFrames_append_leftover (ch : Nat) (A X : List Byte) :
    decodedFrames ch (A ++ X) = decodedFrames ch A ++ decodedFrames ch (leftover (2 * ch) A ++ X) := by
  obtain ⟨D, hA, hD⟩ := whole_append_leftover (2 * ch) A
  have hrest : decodedFrames ch (leftover (2 * ch) A) = [] := decodedFrames_of_short (by simp [Nat.mod_div_self])
  calc decodedFrames ch (A ++ X)
      = decodedFrames ch D ++ decodedFrames ch (leftover (2 * ch) A ++ X) := by
        rw [← decodedFrames_append hD, ← List.append_assoc, ← hA]
    _ = decodedFrames ch A ++ decodedFrames ch (leftover (2 * ch) A ++ X) := by
        rw [congrArg (decodedFrames ch) hA, decodedFrames_append hD, hrest, List.append_nil]

/-- What two portions leave is what the first one's leftover and the second leave. -/
theorem leftover_append_leftover (bpf : Nat) (A X : List Byte) :
    leftover bpf (A ++ X) = leftover bpf (leftover bpf A ++ X) := by
  obtain ⟨D, hA, hD⟩ := whole_append_leftover bpf A
  rw [← leftover_append hD (leftover bpf A ++ X), ← List.append_assoc, ← hA]

end Sys2Proof.Machine
end

section
/-! What a PULL that executes does to the queue, the scratch bytes and INBLK, with the source's answer `B` (R115 to
R117). -/

namespace Sys2Proof.Machine

variable {s t : State} {B : List Byte} {req : Imm24}

/-! ### The source's step and its answer -/

/-- The source's step is a change of the model's own lists alone. -/
theorem srcAdvance_eq (s : State) (req : Nat) :
    ∃ source draws, s.srcAdvance req = { s with source := source, draws := draws } := by
  unfold State.srcAdvance
  split
  · exact ⟨_, _, rfl⟩
  · split <;> exact ⟨_, _, rfl⟩

/-- PULL's check is on the request, and the answer is no longer than it (R66, R115). -/
theorem answer_fits_queue (hr : req.toNat + s.ilq.length ≤ s.scap) (hB : s.srcAnswer req.toNat = some B) :
    B.length + s.ilq.length ≤ s.scap :=
  (Nat.add_le_add_right (srcAnswer_length hB) _).trans hr

/-! ### The queue and the decoded frames -/

theorem pullFrames_eq (s : State) (B : List Byte) : s.pullFrames B = (s.ilq ++ B).length / s.bpf := by
  rw [State.pullFrames, List.length_append]

theorem pullScratch_eq (s : State) (B : List Byte) :
    s.pullScratch B = (s.ilq ++ B) ++ s.scratch.drop (s.ilq ++ B).length := by
  rw [State.pullScratch, List.length_append]

/-- PULL stages what its whole frames leave of the queue and the answer (R115). -/
theorem ilq_pullWith (s : State) (B : List Byte) : (s.pullWith B).ilq = leftover s.bpf (s.ilq ++ B) := by
  rw [State.pullWith_ilq, pullFrames_eq, pullScratch_eq, ← List.length_append,
    List.drop_append_of_le_length (Nat.div_mul_le_self _ _)]
  exact List.take_left' (length_leftover _ _)

/-- The lanes a PULL writes are decoded from the queue and the answer (R113). -/
theorem readWord_pullWith {i c : Nat} (hfit : B.length + s.ilq.length ≤ s.scap)
    (hi : i < (s.ilq ++ B).length / s.bpf) (hc : c < s.ch.toNat) :
    (s.pullWith B).mem.readWord (inAddr s.params c i) = some (laneDecode s.bpf (s.ilq ++ B) i c) := by
  rw [State.pullWith_mem, decodeFrames_readWord _ _ _ _ _ (by rwa [pullFrames_eq]) hc (pullFrames_le hfit),
    pullScratch_eq, laneDecode_append_left hi hc, State.bpf]

/-- PULL's frames are the whole frames of the queue and the answer, decoded (R113, R115). -/
theorem pulledFrames_pullWith (hfit : B.length + s.ilq.length ≤ s.scap) :
    (s.pullWith B).pulledFrames = decodedFrames s.ch.toNat (s.ilq ++ B) := by
  simp only [State.pulledFrames, decodedFrames, State.pullWith_nin, State.pullWith_ch, State.pullWith_params,
    pullFrames_eq]
  refine List.map_congr_left fun i hi => List.map_congr_left fun c hc => ?_
  exact readWord_pullWith hfit (List.mem_range.mp hi) (List.mem_range.mp hc)

/-- Bytes outside the lanes of the frames decoded keep their value (R115). -/
theorem readByte_pullWith_other {a : Nat}
    (ha : ∀ i c, i < (s.ilq ++ B).length / s.bpf → c < s.ch.toNat →
      a < inAddr s.params c i ∨ inAddr s.params c i + 4 ≤ a) :
    (s.pullWith B).mem.readByte a = s.mem.readByte a :=
  decodeFrames_readByte_other _ _ _ _ _ _ (by rwa [pullFrames_eq])

/-- KLAST holds the length of any answer to a 24-bit request (R37, R66). -/
theorem toNat_klast_pullWith (hB : s.srcAnswer req.toNat = some B) (u : State) :
    (u.pullWith B).klast.toNat = B.length := by
  rw [State.pullWith_klast, BitVec.toNat_ofNat, Nat.mod_eq_of_lt ((srcAnswer_length hB).trans_lt req.isLt)]

/-- An answered PULL that passes its checks is `pullWith`, but for the model's own lists (R115). -/
theorem exec_pull_answered (hm : s.mode = .ready) (hr : req.toNat + s.ilq.length ≤ s.scap)
    (hB : s.srcAnswer req.toNat = some B) : exec (.pull req) s = .next ((s.srcAdvance req.toNat).pullWith B) :=
  exec_of_ran (.pull req B hm hr hB)

/-- Settles O13: the failing checks are faults; an answered PULL is `pullWith`, taken field by field (R115). -/
theorem pullDecodesWholeFramesAndStagesTheRest : Obligations.PullDecodesWholeFramesAndStagesTheRest := by
  intro req s
  refine ⟨fun hm => (Raises.streamInUnconf (.pull req) nofun nofun hm).exec_eq, exec_of_failed nofun,
    fun hm hr => (Raises.pullTooLong req hm hr).exec_eq, fun B hm hr hB => ?_⟩
  have hfit := answer_fits_queue hr hB
  have hexec := exec_pull_answered hm hr hB
  obtain ⟨source, draws, hsrc⟩ := srcAdvance_eq s req.toNat
  rw [hsrc] at hexec ⊢
  refine ⟨_, hexec, ?_, fun i c hi hc => ?_, fun a ha => readByte_pullWith_other ha, ilq_pullWith _ B, ?_,
    pullScratch_eq _ B, pullFrames_eq _ B, toNat_klast_pullWith hB _, rfl, rfl⟩
  · rw [← pullFrames_eq]
    exact pullFrames_le hfit
  · obtain ⟨lo, hi', hlo, hhi, hdec⟩ := laneDecode_of_lt (bpf := s.bpf) (lane_lt_length hi hc)
    exact ⟨lo, hi', hlo, hhi,
      hdec ▸ readWord_pullWith (s := { s with source := source, draws := draws }) hfit hi hc⟩
  · rw [ilq_pullWith, length_leftover]
    rfl

/-- Settles O15: a leftover is shorter than a frame, and what stands before it is whole frames (R117). -/
theorem pullLosesNoByte : Obligations.PullLosesNoByte := by
  intro req s t B hm hch hr hB h
  have hexec := exec_pull_answered hm hr hB
  obtain ⟨source, draws, hsrc⟩ := srcAdvance_eq s req.toNat
  rw [hexec, hsrc] at h
  obtain rfl := Host.Outcome.next.inj h
  rw [ilq_pullWith, State.pullWith_nin, pullFrames_eq, length_leftover]
  exact ⟨Nat.le_sub_one_of_lt (Nat.mod_lt _ (Nat.mul_pos two_pos hch)), whole_append_leftover s.bpf (s.ilq ++ B)⟩

end Sys2Proof.Machine
end

section
/-! R45 by itself along a step, and a series of served events put together from its PULLs (R45, R118). -/

namespace Sys2Proof.Machine

variable {s t u : State} {e : HostEvent} {rest : List HostEvent} {i : Instr} {B : List Byte}

/-! ### R45 along a step -/

/-- A PULL keeps R45 also where `CH = 0`: there it can ask for nothing and finds nothing queued. -/
theorem State.StagingInv.pullWith (h : s.StagingInv) (hm : s.mode = .ready)
    (hfit : B.length + s.ilq.length ≤ s.scap) : (s.pullWith B).StagingInv := by
  rcases Nat.eq_zero_or_pos s.ch.toNat with h0 | hpos
  · have hscap : s.scap = 0 := by simp [State.scap, State.bpf, h0]
    obtain ⟨rfl, hilq⟩ : B = [] ∧ s.ilq = [] := by
      constructor <;> apply List.eq_nil_of_length_eq_zero <;> omega
    have hn : s.pullFrames [] = 0 := by simp [State.pullFrames, hilq]
    exact { h with
      ilq_le := fun hpos => absurd h0 hpos.ne'
      ilq_empty := fun _ => by simp [hilq]
      nin_le := by simp [hn]
      klast_le := by simp
      unconf := by simp [hm] }
  · exact stagingInv_pullWith h hm hpos hfit

/-- A delivery that stages bytes only when nothing remains of the request (R45(b), R45(c)). -/
theorem State.StagingInv.deliver (h : s.StagingInv) (hm : s.mode = .ready) {bytes staged : List Byte} {left : Nat}
    (hlen : staged.length ≤ s.scap) (hleft : 0 < staged.length → left = 0) :
    (s.deliver bytes staged left).StagingInv :=
  { h with
    olq_le := hlen
    olq_remain := fun h0 => by simp [hleft h0]
    unconf := by simp [hm] }

/-- INIT finds the queues empty and the counts 0 (R45(e)), so any channel count keeps R45. -/
theorem State.StagingInv.init (h : s.StagingInv) (hm : s.mode = .unconf) (ch : Byte) :
    ({ s with ch := ch, mode := .ready } : State).StagingInv := by
  obtain ⟨hilq, holq, hrem, hnin, hklast, -, -⟩ := h.unconf hm
  constructor <;> simp [hilq, holq, hrem, hnin, hklast]

theorem Ran.stagingInv (h : Ran s i t) (hs : s.StagingInv) : t.StagingInv := by
  cases h with
  | reset => exact (inv_resetBlock s).staging
  | discarded => exact hs
  | faulted => exact { hs with unconf := nofun }
  | init hm => exact hs.init hm _
  | pull req B hm hr hB =>
    have hfit := answer_fits_queue hr hB
    obtain ⟨source, draws, hsrc⟩ := srcAdvance_eq s req.toNat
    rw [hsrc]
    exact State.StagingInv.pullWith (s := { s with source := source, draws := draws }) { hs with } hm hfit
  | rdreq count d hm hr hd =>
    have := hs.olq_le
    refine hs.deliver hm ?_ ?_ <;> rw [List.length_drop] <;> omega
  | encode m E k hm hb ho hE hk =>
    have hlen : E.length ≤ s.scap := by
      rw [hE, length_encFrames]
      exact Nat.mul_le_mul_right _ hb
    have hdelivered : (s.deliver (E.take k) (E.drop k) (s.remain.toNat - k)).StagingInv := by
      refine hs.deliver hm ?_ ?_ <;> rw [List.length_drop] <;> omega
    exact { hdelivered with }
  | pad hm => exact { hs with olq_remain := fun _ => rfl, unconf := by simp [hm] }

theorem Served.stagingInv (h : Served s e t) (hs : s.StagingInv) : t.StagingInv := by
  cases h with
  | reset => exact (inv_resetBlock s).staging
  | answered | format | window => exact { hs with }
  | command w v hv =>
    rcases command_ran hv with ⟨i, _, hran⟩ | ⟨_, rfl⟩ | ⟨_, rfl⟩
    · exact { hran.stagingInv hs with }
    · exact { hs with unconf := nofun }
    · exact { hs with }

/-- Every step keeps R45, whatever the other invariants say (R45). -/
theorem stagingInv_step (hs : s.StagingInv) (h : step s = .next t) : t.StagingInv := by
  rcases step_next h with ⟨_, rfl⟩ | ⟨_, _, _, _, served⟩
  · exact hs
  · exact served.stagingInv { hs with }

/-! ### The channel count along a series -/

theorem served_of_step (hp : s.pending = e :: rest) (h : step s = .next t) :
    Served { s with pending := rest } e t := by
  rcases step_next h with ⟨h0, -⟩ | ⟨e', rest', hp', -, served⟩
  · simp [hp] at h0
  · obtain ⟨rfl, rfl⟩ : e = e' ∧ rest = rest' := by simpa [hp] using hp'
    exact served

theorem Served.mode_ne_unconf (h : Served s e t) (he : e.isReset = false) (hm : s.mode ≠ .unconf) :
    t.mode ≠ .unconf := by
  intro ht
  rcases h.mode_changes (by rw [ht]; exact hm.symm) with ⟨hreset, -⟩ | ⟨-, hs, -⟩ | ⟨_, -, -, hfailed, -⟩
  · simp [he] at hreset
  · exact hm hs
  · simp [ht] at hfailed

/-- Once a format is latched, a series without a reset keeps the channel count (R23, R30). -/
theorem servedSeries_ch {α : Type} {collect : HostEvent → State → State → List α} {n : Nat} {L : List α}
    (hm : s.mode ≠ .unconf) (h : servedSeries collect n s = some (L, u)) : u.ch = s.ch := by
  induction n generalizing s L with
  | zero => cases h; rfl
  | succ n ih =>
    obtain ⟨e, rest, t, L', hp, he, hstep, hseries, -⟩ := servedSeries_succ h
    have served := served_of_step hp hstep
    obtain ⟨-, -, -, hch⟩ := served.format_eq he hm
    rw [ih (served.mode_ne_unconf he hm) hseries, hch]

/-! ### The PULLs of a series -/

/-- A PULL after which the block is READY has executed, with the source's answer (R115). -/
theorem Ran.pull_of_ready {req : Imm24} (h : Ran s (.pull req) t) (ht : t.mode = .ready) :
    ∃ B, s.srcAnswer req.toNat = some B ∧ t.ilq = leftover t.bpf (s.ilq ++ B) ∧
      t.pulledFrames = decodedFrames t.ch.toNat (s.ilq ++ B) := by
  cases h with
  | discarded _ _ hm => simp [hm] at ht
  | faulted => cases ht
  | pull _ B hm hr hB =>
    have hfit := answer_fits_queue hr hB
    obtain ⟨source, draws, hsrc⟩ := srcAdvance_eq s req.toNat
    rw [hsrc]
    exact ⟨B, hB, ilq_pullWith _ B, pulledFrames_pullWith (s := { s with source := source, draws := draws }) hfit⟩

/-- What a step that serves no reset takes from the source: nothing, and the queue stays, or one answer `B`, and the
queue and `B` are decoded as far as they are whole frames (R115, R118). -/
theorem pulledBy_of_step (hp : s.pending = e :: rest) (he : e.isReset = false) (h : step s = .next t) :
    (pulledBy e s t = [] ∧ t.ilq = s.ilq) ∨
      ∃ B, t.mode = .ready ∧ pulledBy e s t = [⟨decodedFrames t.ch.toNat (s.ilq ++ B), B⟩] ∧
        t.ilq = leftover t.bpf (s.ilq ++ B) := by
  rcases step_executed hp he h with ⟨i, v, hi, hx, hexec, hv, rfl⟩ | ⟨hx, hsame⟩
  · have hran := ran_of_exec hexec
    rw [pulledBy, hx]
    cases i with
    | reset => exact absurd rfl hi
    | pull req =>
      obtain ⟨B, hB, hilq, hframes⟩ := hran.pull_of_ready hv
      have hanswer : (s.srcAnswer req.toNat).getD [] = B := congrArg (Option.getD · []) hB
      exact .inr ⟨B, hv, congrArg₂ (fun F B => [Pulled.mk F B]) hframes hanswer, hilq⟩
    | init | rdreq | encode | pad => exact .inl ⟨rfl, (congrArg State.ilq (hran.frame_of_not_pull nofun nofun) :)⟩
  · exact .inl ⟨by rw [pulledBy, hx], hsame.ilq⟩

/-- In a state with R45(a) no whole frame is queued. -/
theorem State.StagingInv.no_frame_queued (h : s.StagingInv) : s.ilq.length / s.bpf = 0 := by
  rcases Nat.eq_zero_or_pos s.ch.toNat with h0 | hpos
  · simp [h.ilq_empty h0]
  · have hbpf : 0 < s.bpf := Nat.mul_pos two_pos hpos
    exact Nat.div_eq_of_lt ((h.ilq_le hpos).trans_lt (Nat.pred_lt hbpf.ne'))

/-- A series of PULLs decodes as one PULL of everything would, by induction on the steps of the series (R118). -/
theorem servedSeries_pulled {n : Nat} {L : List Pulled} (hs : s.StagingInv)
    (h : servedSeries pulledBy n s = some (L, u)) :
    (L.map (·.frames)).flatten = decodedFrames u.ch.toNat (s.ilq ++ (L.map (·.answer)).flatten) ∧
      u.ilq = leftover u.bpf (s.ilq ++ (L.map (·.answer)).flatten) := by
  induction n generalizing s L with
  | zero =>
    cases h
    simp [decodedFrames_of_short hs.no_frame_queued, leftover_of_short hs.no_frame_queued]
  | succ n ih =>
    obtain ⟨e, rest, t, L', hp, he, hstep, hseries, rfl⟩ := servedSeries_succ h
    obtain ⟨hframes, hqueue⟩ := ih (stagingInv_step hs hstep) hseries
    rcases pulledBy_of_step hp he hstep with ⟨hnone, hilq⟩ | ⟨B, hm, hone, hilq⟩
    · rw [hnone, ← hilq]
      exact ⟨hframes, hqueue⟩
    · have hch : u.ch = t.ch := servedSeries_ch (by simp [hm]) hseries
      have hbpf : u.bpf = t.bpf := by rw [State.bpf, hch, State.bpf]
      simp only [hone, List.singleton_append, List.map_cons, List.flatten_cons, ← List.append_assoc]
      rw [decodedFrames_append_leftover _ (s.ilq ++ B), leftover_append_leftover _ (s.ilq ++ B), hframes, hqueue, hilq,
        hch, hbpf]
      exact ⟨rfl, rfl⟩

/-- Settles O16: the series' PULLs decode as one would, and a leftover is as long as the remainder (R118). -/
theorem chunkingIsInvisible : Obligations.ChunkingIsInvisible := by
  intro n s u L hs h
  obtain ⟨hframes, hqueue⟩ := servedSeries_pulled hs h
  exact ⟨hframes, hqueue, by rw [hqueue, length_leftover]⟩

end Sys2Proof.Machine
end

section
/-! Where the pulses of a step come from (R116, R200, R201, R203). -/

namespace Sys2Proof.Machine

variable {s t : State} {e : HostEvent} {i : Instr}

/-- What a command pulses: a PULL that got bytes `ev_src`, a PAD `ev_eos`, every other one nothing. -/
theorem Ran.events (h : Ran s i t) :
    t.events = s.events ∨
      (t.events = s.events ++ [.src] ∧ t.klast ≠ 0 ∧ (∃ req, i = .pull req) ∧ s.mode = .ready) ∨
      (t.events = s.events ++ [.eos] ∧ i = .pad ∧ s.mode = .ready) := by
  cases h with
  | reset | discarded | faulted | init | rdreq | encode => exact .inl rfl
  | pad hm => exact .inr (.inr ⟨rfl, rfl, hm⟩)
  | pull req B hm hr hB =>
    rcases Nat.eq_zero_or_pos B.length with h0 | hpos
    · exact .inl (by simp [h0])
    · refine .inr (.inl ⟨by simp [hpos], fun hk => ?_, ⟨req, rfl⟩, hm⟩)
      have hlen := toNat_klast_pullWith hB (s.srcAdvance req.toNat)
      rw [hk] at hlen
      exact hpos.ne hlen

theorem Served.events (h : Served s e t) :
    t.events = s.events ∨
      (t.events = s.events ++ [.src] ∧ t.klast ≠ 0 ∧
        ∃ req : Imm24, e = .bus (.write 32 0x00000000 (0x10#8 ++ req)) ∧ s.mode = .ready) ∨
      (t.events = s.events ++ [.eos] ∧ e = .bus (.write 32 0x00000000 0x22000000) ∧ s.mode = .ready) := by
  cases h with
  | reset | answered | format | window => exact .inl rfl
  | command w u hu =>
    rcases command_ran hu with ⟨i, rfl, hran⟩ | ⟨_, rfl⟩ | ⟨_, rfl⟩
    · rcases hran.events with heq | ⟨hsrc, hk, ⟨req, rfl⟩, hm⟩ | ⟨heos, rfl, hm⟩
      · exact .inl heq
      · exact .inr (.inl ⟨hsrc, hk, req, rfl, hm⟩)
      · exact .inr (.inr ⟨heos, rfl, hm⟩)
    · exact .inl rfl
    · exact .inl rfl

/-- Settles O31: an idle block pulses nothing, a served event what its command does (R203). -/
theorem pulsesComeFromPullAndPadOnly : Obligations.PulsesComeFromPullAndPadOnly := by
  intro s t h
  rcases step_next h with ⟨_, rfl⟩ | ⟨e, rest, hp, _, served⟩
  · exact .inl rfl
  · rcases served.events with heq | ⟨hsrc, hk, req, rfl, hm⟩ | ⟨heos, rfl, hm⟩
    · exact .inl heq
    · exact .inr (.inl ⟨hsrc, hk, req, rest, hp, hm⟩)
    · exact .inr (.inr ⟨heos, rest, hp, hm⟩)

end Sys2Proof.Machine
end

section
/-! The decoded sample: its two bytes as a number, the fields of its pattern, and the exact value they denote (R110 to
R112). -/

namespace Sys2Proof.Machine

variable {s : Int} {lo hi lo' hi' : Byte}

/-! ### The sample of two bytes -/

/-- A sample's two bytes, the high one first, as a two's complement number (R63, R110). -/
theorem pcmValue_eq_toInt (lo hi : Byte) : pcmValue lo hi = (hi ++ lo : BitVec 16).toInt := by
  have happend : (hi ++ lo : BitVec 16).toInt = 2 ^ 8 * hi.toInt + lo.toNat := BitVec.toInt_append
  rw [happend, BitVec.toInt_eq_toNat_cond, pcmValue, sext16]
  omega

theorem pcmValue_bounds (lo hi : Byte) : -32768 ≤ pcmValue lo hi ∧ pcmValue lo hi ≤ 32767 := by
  unfold pcmValue sext16
  omega

theorem pcmValue_inj (h : pcmValue lo hi = pcmValue lo' hi') : lo = lo' ∧ hi = hi' := by
  simp only [← BitVec.toNat_inj]
  unfold pcmValue sext16 at h
  omega

/-! ### The fields of the pattern -/

/-- The three fields of a binary32 pattern put together from them (R12, R65). -/
theorem f32_fields_append (neg : Bool) (exp : BitVec 8) (frac : BitVec 23) :
    f32Neg (BitVec.ofBool neg ++ exp ++ frac) = neg ∧ f32Exp (BitVec.ofBool neg ++ exp ++ frac) = exp.toNat ∧
      f32Frac (BitVec.ofBool neg ++ exp ++ frac) = frac.toNat := by
  have hsign : (BitVec.ofBool neg ++ exp).msb = neg := BitVec.msb_append.trans (by simp)
  refine ⟨BitVec.msb_append.trans ((if_neg (by decide)).trans hsign), ?_,
    congrArg BitVec.toNat BitVec.extractLsb'_append_eq_right⟩
  rw [f32Exp, BitVec.extractLsb'_append_eq_of_le (le_refl 23)]
  exact congrArg BitVec.toNat BitVec.extractLsb'_append_eq_right

/-- The highest set bit of a nonzero sample's magnitude (R111). -/
theorem log2_natAbs_le (h0 : s ≠ 0) (hs : s.natAbs ≤ 32768) : s.natAbs.log2 ≤ 15 :=
  Nat.le_of_lt_succ ((Nat.log2_lt (Int.natAbs_ne_zero.mpr h0)).mpr (by omega))

/-- R111's fraction field in full: scaled up to the 24 bits of a significand, the magnitude fills them exactly. -/
theorem significand_eq {a : Nat} (h0 : a ≠ 0) (he : a.log2 ≤ 23) :
    2 ^ 23 + (a - 2 ^ a.log2) * 2 ^ (23 - a.log2) = a * 2 ^ (23 - a.log2) := by
  have hpow : 2 ^ 23 = 2 ^ a.log2 * 2 ^ (23 - a.log2) := by rw [← Nat.pow_add, Nat.add_sub_cancel' he]
  rw [hpow, ← Nat.add_mul, Nat.add_sub_cancel' (Nat.log2_self_le h0)]

theorem fraction_lt {a : Nat} (h0 : a ≠ 0) (he : a.log2 ≤ 23) : (a - 2 ^ a.log2) * 2 ^ (23 - a.log2) < 2 ^ 23 := by
  have hlt : a * 2 ^ (23 - a.log2) < 2 ^ (a.log2 + 1) * 2 ^ (23 - a.log2) :=
    Nat.mul_lt_mul_of_pos_right Nat.lt_log2_self (Nat.two_pow_pos _)
  rw [← significand_eq h0 he, ← Nat.pow_add, show a.log2 + 1 + (23 - a.log2) = 24 by omega] at hlt
  omega

/-- The fields R111 gives for a nonzero sample fit, so the pattern has them. -/
theorem f32OfSample_fields (h0 : s ≠ 0) (hs : s.natAbs ≤ 32768) :
    f32Neg (f32OfSample s) = decide (s < 0) ∧ f32Exp (f32OfSample s) = s.natAbs.log2 + 112 ∧
      f32Frac (f32OfSample s) = (s.natAbs - 2 ^ s.natAbs.log2) * 2 ^ (23 - s.natAbs.log2) := by
  have he := log2_natAbs_le h0 hs
  have hfrac := fraction_lt (Int.natAbs_ne_zero.mpr h0) (he.trans (by decide))
  rw [f32OfSample, if_neg h0]
  obtain ⟨hneg, hexp, hfr⟩ := f32_fields_append (decide (s < 0)) (BitVec.ofNat 8 (s.natAbs.log2 + 112))
    (BitVec.ofNat 23 ((s.natAbs - 2 ^ s.natAbs.log2) * 2 ^ (23 - s.natAbs.log2)))
  refine ⟨hneg, hexp.trans ?_, hfr.trans ?_⟩
  · rw [BitVec.toNat_ofNat, Nat.mod_eq_of_lt (by omega)]
  · rw [BitVec.toNat_ofNat, Nat.mod_eq_of_lt hfrac]

/-! ### The value -/

theorem f32Mag_f32OfSample (h0 : s ≠ 0) (hs : s.natAbs ≤ 32768) :
    f32Mag (f32OfSample s) = s.natAbs * 2 ^ 134 := by
  have he := log2_natAbs_le h0 hs
  obtain ⟨-, hexp, hfrac⟩ := f32OfSample_fields h0 hs
  rw [f32Mag, hexp, hfrac, if_neg (by omega), significand_eq (Int.natAbs_ne_zero.mpr h0) (he.trans (by decide)),
    Nat.mul_assoc, ← Nat.pow_add, show 23 - s.natAbs.log2 + (s.natAbs.log2 + 112 - 1) = 134 by omega]

/-- `F32(s / 32768)` is exact: `s` times `2^-15`, in units of `2^-149` (R110, R111). -/
theorem f32Units_f32OfSample (hs : s.natAbs ≤ 32768) : f32Units (f32OfSample s) = s * 2 ^ 134 := by
  by_cases h0 : s = 0
  · subst h0
    decide
  · obtain ⟨hneg, -, -⟩ := f32OfSample_fields h0 hs
    rw [f32Units, hneg, f32Mag_f32OfSample h0 hs]
    by_cases hlt : s < 0
    · rw [if_pos (decide_eq_true hlt)]
      omega
    · rw [if_neg (by simpa using hlt)]
      omega

theorem f32Units_dec16 (lo hi : Byte) : f32Units (dec16 lo hi) = pcmValue lo hi * 2 ^ 134 :=
  f32Units_f32OfSample (by have := pcmValue_bounds lo hi; omega)

theorem f32One_eq : f32One = 32768 * 2 ^ 134 := by decide

/-- Settles O41: the value is the sample times `2^134` units, and 1.0 is `2^15` times as much (R110). -/
theorem dec16DenotesTheSampleOver32768 : Obligations.Dec16DenotesTheSampleOver32768 := by
  intro lo hi
  rw [f32Units_dec16, ← pcmValue_eq_toInt, f32One_eq]
  ring

/-- Settles O42: the fields of the pattern, `e` being the position of the highest set bit (R111). -/
theorem dec16Pattern : Obligations.Dec16Pattern := by
  intro lo hi
  rw [← pcmValue_eq_toInt]
  refine ⟨fun h0 => by rw [dec16, h0]; rfl, fun h0 => ?_⟩
  have hs : (pcmValue lo hi).natAbs ≤ 32768 := by have := pcmValue_bounds lo hi; omega
  obtain ⟨hneg, hexp, hfrac⟩ := f32OfSample_fields h0 hs
  refine ⟨_, log2_natAbs_le h0 hs, Nat.log2_self_le (Int.natAbs_ne_zero.mpr h0), Nat.lt_log2_self, ?_, hexp, hfrac⟩
  exact (congrArg (· = true) hneg).to_iff.trans decide_eq_true_iff

/-- Settles O43: the value is a fixed multiple of the sample, so its range is the sample's and no two agree (R112). -/
theorem dec16RangeAndDistinctness : Obligations.Dec16RangeAndDistinctness := by
  refine ⟨fun lo hi => ?_, by decide, by decide, fun lo hi lo' hi' h => ?_⟩
  · obtain ⟨hmin, hmax⟩ := pcmValue_bounds lo hi
    rw [f32Units_dec16, f32One_eq]
    omega
  · have hvalue := congrArg f32Units h
    rw [f32Units_dec16, f32Units_dec16] at hvalue
    exact pcmValue_inj (Int.eq_of_mul_eq_mul_right (by decide) hvalue)

end Sys2Proof.Machine
end

section
/-! RDREQ, ENCODE and PAD in every mode, what they move from the staging queue to the destination stream, and that over
a series of served events no output byte is lost (R140, R145 to R147, R150 to R152). -/

namespace Sys2Proof.Machine

variable {s t u : State} {e : HostEvent} {rest : List HostEvent} {i : Instr} {P Q : List Byte}

/-! ### No output byte is lost -/

/-- From `s` to `t`, with `P` staged behind what `s` holds in OLQ, some bytes `D` move from the front of that to the end
of DST: what R152 asks of one command and of a series alike. -/
def Moves (s : State) (P : List Byte) (t : State) : Prop := ∃ D, t.dst = s.dst ++ D ∧ s.olq ++ P = D ++ t.olq

/-- What is delivered and then staged grows by what was produced, and what is staged is its end (R152). -/
theorem Moves.outStream (h : Moves s P t) : t.outStream = s.outStream ++ P ∧ t.olq <:+ s.olq ++ P := by
  obtain ⟨D, hdst, holq⟩ := h
  refine ⟨?_, holq ▸ List.suffix_append D t.olq⟩
  rw [State.outStream, State.outStream, hdst, List.append_assoc, ← holq, List.append_assoc]

theorem Moves.trans (h : Moves s P t) (h' : Moves t Q u) : Moves s (P ++ Q) u := by
  obtain ⟨D, hdst, holq⟩ := h
  obtain ⟨D', hdst', holq'⟩ := h'
  refine ⟨D ++ D', by rw [hdst', hdst, List.append_assoc], ?_⟩
  rw [← List.append_assoc, holq, List.append_assoc, holq', List.append_assoc]

theorem moves_nil_of_eq (hdst : t.dst = s.dst) (holq : t.olq = s.olq) : Moves s [] t :=
  ⟨[], by simp [hdst], by simp [holq]⟩

/-- Bytes are staged only while no request is open (R45(c)), so PAD's zeros pass nothing staged. -/
theorem State.StagingInv.olq_append_zeros (h : s.StagingInv) :
    s.olq ++ List.replicate s.remain.toNat 0 = List.replicate s.remain.toNat 0 ++ s.olq := by
  rcases Nat.eq_zero_or_pos s.olq.length with h0 | hpos
  · simp [List.eq_nil_of_length_eq_zero h0]
  · simp [h.olq_remain hpos]

/-- A command after which the block is READY stages what it produces and delivers from the front (R140, R145, R150). -/
theorem Ran.moves (h : Ran s i t) (hs : s.StagingInv) (ht : t.mode = .ready) : Moves s (produced i s) t := by
  cases h with
  | reset => cases ht
  | discarded _ _ hm => simp [hm] at ht
  | faulted => cases ht
  | init => exact moves_nil_of_eq rfl rfl
  | pull => exact moves_nil_of_eq (by simp) (by simp)
  | rdreq count d => exact ⟨s.olq.take d, rfl, by simp [produced]⟩
  | encode m E k _ _ holq hE =>
    subst hE
    exact ⟨(s.encFrames m.toNat).take k, rfl, by simp [produced, List.eq_nil_of_length_eq_zero holq]⟩
  | pad => exact ⟨List.replicate s.remain.toNat 0, rfl, hs.olq_append_zeros⟩

/-- What a command produces does not depend on what is pending. -/
theorem produced_withPending (i : Instr) (s : State) (rest : List HostEvent) :
    produced i { s with pending := rest } = produced i s := by
  cases i <;> rfl

/-- A step that serves no reset moves what its command produced, if it executes one (R152). -/
theorem moves_step (hs : s.StagingInv) (hp : s.pending = e :: rest) (he : e.isReset = false) (h : step s = .next t) :
    Moves s (producedBy e s t) t := by
  rcases step_executed hp he h with ⟨i, v, -, hx, hexec, hv, rfl⟩ | ⟨hx, hsame⟩
  · have hmoves := (ran_of_exec hexec).moves { hs with } hv
    rw [produced_withPending] at hmoves
    rw [producedBy, hx]
    exact hmoves
  · rw [producedBy, hx]
    exact moves_nil_of_eq hsame.dst hsame.olq

/-- The moves of the steps of a series add up, by induction on the steps. -/
theorem servedSeries_moves {n : Nat} (hs : s.StagingInv) (h : servedSeries producedBy n s = some (P, u)) :
    Moves s P u := by
  induction n generalizing s P with
  | zero => cases h; exact moves_nil_of_eq rfl rfl
  | succ n ih =>
    obtain ⟨e, rest, t, P', hp, he, hstep, hseries, rfl⟩ := servedSeries_succ h
    exact (moves_step hs hp he hstep).trans (ih (stagingInv_step hs hstep) hseries)

/-- Settles O22: every step moves produced bytes through OLQ in order, and so does the series (R152). -/
theorem noOutputByteIsLost : Obligations.NoOutputByteIsLost :=
  fun _ _ _ _ hs h => (servedSeries_moves hs h).outStream

/-! ### RDREQ, ENCODE and PAD in every mode -/

/-- REMAIN keeps what is left of a 24-bit count (R34). -/
theorem toNat_ofNat_sub (count : BitVec 24) (k : Nat) :
    (BitVec.ofNat 24 (count.toNat - k)).toNat = count.toNat - k := by
  rw [BitVec.toNat_ofNat, Nat.mod_eq_of_lt ((Nat.sub_le _ _).trans_lt count.isLt)]

/-- Settles O17: the failing checks are faults; an accepted RDREQ ends with no request or with nothing staged (R140). -/
theorem rdreqDrainsStagedBytesFirst : Obligations.RdreqDrainsStagedBytesFirst := by
  intro count s
  refine ⟨fun hm => (Raises.streamInUnconf (.rdreq count) nofun nofun hm).exec_eq, exec_of_failed nofun,
    fun hm hr => (Raises.rdreqOpen count hm hr).exec_eq, fun hm hr => ?_⟩
  refine ⟨_, exec_of_ran (.rdreq count _ hm hr rfl), rfl, rfl, toNat_ofNat_sub count _, ?_, rfl⟩
  rcases Nat.le_total s.olq.length count.toNat with hle | hle
  · exact .inr (List.drop_of_length_le (by omega))
  · exact .inl (by simp [Nat.min_eq_right hle])

/-- Settles O18: the failing checks are faults; an accepted ENCODE cuts the encoded bytes at the request's end (R145,
R146). -/
theorem encodeDeliversThenStages : Obligations.EncodeDeliversThenStages := by
  intro m s
  refine ⟨fun hm => (Raises.streamInUnconf (.encode m) nofun nofun hm).exec_eq, exec_of_failed nofun,
    fun hm hb => (Raises.encodeTooLong m hm hb).exec_eq,
    fun hm hb holq => (Raises.encodeStaged m hm hb (mt List.eq_nil_of_length_eq_zero holq)).exec_eq,
    fun hm hb holq => ?_⟩
  have hlen := length_encFrames (s := s) m.toNat
  rw [← hlen]
  exact ⟨_, exec_of_ran (.encode m _ _ hm hb (by simp [holq]) rfl rfl), rfl, rfl, rfl,
    toNat_ofNat_sub s.remain _, fun _ => rfl, rfl⟩

/-- Settles O21: PAD's two failing modes, and its effect in READY (R150, R151). -/
theorem padCompletesTheRequestWithZeros : Obligations.PadCompletesTheRequestWithZeros :=
  fun _ => ⟨fun hm => (Raises.streamInUnconf .pad nofun nofun hm).exec_eq, exec_of_failed nofun,
    fun hm => exec_of_ran (.pad hm)⟩

/-- All but the last of the frames FWANT asks for are short of the request (R35, R147). -/
theorem frames_before_last_lt {m : Nat} (hm : s.mode = .ready) (hch : 0 < s.ch.toNat) (hpos : 0 < m)
    (hle : m ≤ s.fwant) : (m - 1) * s.bpf < s.remain.toNat := by
  obtain ⟨-, -, hready⟩ := fwantCoversRemain s
  obtain ⟨-, -, -, hlast⟩ := hready hm hch
  exact (Nat.mul_le_mul_right _ (Nat.sub_le_sub_right hle 1)).trans_lt (hlast (hpos.trans_le hle))

/-- Settles O20: ENCODE stages what the request leaves of `m` frames, of which all but the last go into it (R147). -/
theorem referenceHostStagesLessThanAFrame : Obligations.ReferenceHostStagesLessThanAFrame := by
  intro m s t hm hch holq hle h
  obtain ⟨-, -, -, -, haccepted⟩ := encodeDeliversThenStages m s
  obtain ⟨t', h', hlen, -, hstaged, -⟩ := haccepted hm (hle.trans (fwant_le_blk s)) holq
  obtain rfl := Host.Outcome.next.inj (h'.symm.trans h)
  have hcount : t'.olq.length = m.toNat * s.bpf - s.remain.toNat := by
    rw [hstaged, List.length_drop, hlen]
    omega
  refine ⟨?_, fun hfit => List.eq_nil_of_length_eq_zero (by omega)⟩
  rcases Nat.eq_zero_or_pos m.toNat with h0 | hpos
  · simp [hcount, h0]
  · have hlast := frames_before_last_lt hm hch hpos hle
    rw [Nat.sub_one_mul] at hlast
    omega

/-! ### EncFrames -/

/-- In a concatenation of parts of one length `k`, the entry `j` of part `n`. -/
theorem getElem?_flatMap_of_length {α β : Type} {f : α → List β} {k j n : Nat} {x : α} {l : List α}
    (hf : ∀ y, (f y).length = k) (hx : l[n]? = some x) (hj : j < k) : (l.flatMap f)[n * k + j]? = (f x)[j]? := by
  induction l generalizing n with
  | nil => simp at hx
  | cons y l ih =>
    rw [List.flatMap_cons]
    cases n with
    | zero =>
      obtain rfl : y = x := by simpa using hx
      rw [Nat.zero_mul, Nat.zero_add, List.getElem?_append_left (by rw [hf]; exact hj)]
    | succ n =>
      rw [List.getElem?_append_right (by rw [hf, Nat.succ_mul]; omega), hf,
        show (n + 1) * k + j - k = n * k + j by rw [Nat.succ_mul]; omega]
      exact ih (by simpa using hx)

/-- Frame 0 first, channel 0 first inside a frame (R64, R135). -/
theorem getElem?_lanes {m ch i c : Nat} (hi : i < m) (hc : c < ch) : (lanes m ch)[i * ch + c]? = some (i, c) := by
  have hframe := getElem?_flatMap_of_length (f := fun i => (List.range ch).map fun c => (i, c)) (k := ch) (by simp)
    (List.getElem?_range hi) hc
  rw [lanes, hframe]
  simp [hc]

/-- The two bytes of lane (`i`, `c`) stand at `i*BPF + 2c` and after it (R135). -/
theorem getElem?_encFrames {m i c j : Nat} (hi : i < m) (hc : c < s.ch.toNat) (hj : j < 2) :
    (s.encFrames m)[i * s.bpf + 2 * c + j]? = [(enc16 (s.outSample i c)).1, (enc16 (s.outSample i c)).2][j]? := by
  have hpos : i * s.bpf + 2 * c + j = (i * s.ch.toNat + c) * 2 + j := by rw [State.bpf]; ring
  rw [hpos, State.encFrames]
  rw [getElem?_flatMap_of_length (k := 2) (fun _ => rfl) (getElem?_lanes hi hc) hj]

theorem outSample_written {c j : Nat} {w : Word} (hw : s.mem.readWord (outAddr s.params c j) = some w) :
    s.outSample j c = w := by
  rw [State.outSample, hw, Option.getD_some]

/-- Settles O19: the length, and the two bytes of a lane whose word was written (R135). -/
theorem encFramesInterleavesTheLanes : Obligations.EncFramesInterleavesTheLanes := by
  intro s m
  refine ⟨length_encFrames m, rfl, fun i c w hi hc hw => ?_⟩
  rw [← outSample_written hw]
  exact ⟨getElem?_encFrames (j := 0) hi hc (by decide), getElem?_encFrames (j := 1) hi hc (by decide)⟩

end Sys2Proof.Machine
end

section
/-! The encoded sample: its bytes, and the sample by the word's exact value in units of `2^-149` (R130 to R134). -/

namespace Sys2Proof.Machine

variable {w : Word} {lo hi : Byte} {x : Int}

/-! ### The bytes of a sample -/

/-- The bytes of a sample, the high one first, are its 16-bit pattern (R130). -/
theorem enc16_append (w : Word) : ((enc16 w).2 ++ (enc16 w).1 : BitVec 16) = u16 (encSample w) :=
  BitVec.extractLsb'_append_extractLsb' (w := 8) (len := 8)

theorem enc16_of_u16_eq {b : Half} (h : u16 (encSample w) = b) :
    enc16 w = (b.extractLsb' 0 8, b.extractLsb' 8 8) := by
  rw [enc16, h]

/-- The two bytes of a pattern put together from them. -/
theorem enc16_of_u16_eq_append (h : u16 (encSample w) = (hi ++ lo : BitVec 16)) : enc16 w = (lo, hi) := by
  rw [enc16_of_u16_eq h]
  exact congrArg₂ Prod.mk BitVec.extractLsb'_append_eq_right BitVec.extractLsb'_append_eq_left

theorem toInt_u16 (hmin : -32768 ≤ x) (hmax : x ≤ 32767) : (u16 x).toInt = x :=
  BitVec.toInt_ofInt_eq_self (by decide) hmin (Int.lt_add_one_of_le hmax)

/-! ### Magnitude and NaN -/

theorem natAbs_f32Units (w : Word) : (f32Units w).natAbs = f32Mag w := by
  unfold f32Units
  split <;> omega

/-- A zero exponent field leaves the fraction, in units of `2^-149` (R12). -/
theorem f32Mag_lt_of_exp_zero (h : f32Exp w = 0) : f32Mag w < 2 ^ 23 := by
  rw [f32Mag, if_pos h]
  exact (w.extractLsb' 0 23).isLt

/-- The exponent field of a NaN or an infinity makes the magnitude at least `2^128`, which is `2^277` units. -/
theorem le_f32Mag_of_exp (h : f32Exp w = 255) : 2 ^ 277 ≤ f32Mag w := by
  rw [f32Mag, if_neg (by omega), h]
  omega

theorem isNaN_iff : isNaN w = true ↔ f32Exp w = 255 ∧ f32Frac w ≠ 0 := by
  simp [isNaN]

theorem isNaN_eq_false_of_f32Mag_lt (h : f32Mag w < 2 ^ 277) : isNaN w = false := by
  by_contra hnan
  have hle := le_f32Mag_of_exp (isNaN_iff.mp (Bool.eq_true_of_not_eq_false hnan)).1
  omega

/-! ### Truncation toward zero -/

theorem tdiv_bounds_of_nonneg (h : 0 ≤ x) :
    0 ≤ x.tdiv (2 ^ 134) ∧ x.tdiv (2 ^ 134) * 2 ^ 134 ≤ x ∧ x < (x.tdiv (2 ^ 134) + 1) * 2 ^ 134 := by
  rw [Int.tdiv_eq_ediv_of_nonneg h]
  omega

/-- Truncation is odd, so below zero it rounds up. -/
theorem tdiv_bounds_of_nonpos (h : x ≤ 0) :
    x.tdiv (2 ^ 134) ≤ 0 ∧ x ≤ x.tdiv (2 ^ 134) * 2 ^ 134 ∧ (x.tdiv (2 ^ 134) - 1) * 2 ^ 134 < x := by
  have hneg := tdiv_bounds_of_nonneg (x := -x) (by omega)
  rw [Int.neg_tdiv] at hneg
  omega

/-! ### The sample -/

theorem encSample_of_nan (h : isNaN w = true) : encSample w = (Config.encNaN w).toInt := if_pos h

theorem encSample_of_le_neg_one (hnan : isNaN w = false) (h : f32Units w ≤ -f32One) : encSample w = -32768 := by
  rw [encSample, if_neg (by simp [hnan]), if_pos h]

theorem encSample_of_one_le (hnan : isNaN w = false) (h : f32One ≤ f32Units w) : encSample w = 32767 := by
  have hneg : ¬ f32Units w ≤ -f32One := by
    rw [f32One_eq] at h ⊢
    omega
  rw [encSample, if_neg (by simp [hnan]), if_neg hneg, if_pos h]

/-- Between -1.0 and 1.0 the quotient lies in [-32767, 32767], so the clamp keeps it (R130, R131). -/
theorem tdiv_bounds_of_between (hmin : -f32One < x) (hmax : x < f32One) :
    -32767 ≤ x.tdiv (2 ^ 134) ∧ x.tdiv (2 ^ 134) ≤ 32767 := by
  rw [f32One_eq] at hmin hmax
  rcases Int.le_total 0 x with h | h
  · have := tdiv_bounds_of_nonneg h
    omega
  · have := tdiv_bounds_of_nonpos h
    omega

theorem encSample_of_between (hnan : isNaN w = false) (hmin : -f32One < f32Units w) (hmax : f32Units w < f32One) :
    encSample w = (f32Units w).tdiv (2 ^ 134) := by
  have hquot : (f32Units w * 32768).tdiv f32One = (f32Units w).tdiv (2 ^ 134) := by
    rw [f32One_eq, Int.mul_comm]
    exact Int.mul_tdiv_mul_of_pos _ _ (by decide)
  obtain ⟨hlow, hhigh⟩ := tdiv_bounds_of_between hmin hmax
  rw [encSample, if_neg (by simp [hnan]), if_neg (Int.not_le.mpr hmin), if_neg (Int.not_le.mpr hmax), hquot, clamp]
  omega

theorem encSample_bounds (w : Word) : -32768 ≤ encSample w ∧ encSample w ≤ 32767 := by
  cases hnan : isNaN w with
  | true =>
    rw [encSample_of_nan hnan]
    exact ⟨BitVec.le_toInt _, Int.le_of_lt_add_one (BitVec.toInt_lt)⟩
  | false =>
    rcases Int.lt_or_le (-f32One) (f32Units w) with hmin | hmin
    · rcases Int.lt_or_le (f32Units w) f32One with hmax | hmax
      · have := tdiv_bounds_of_between hmin hmax
        rw [encSample_of_between hnan hmin hmax]
        omega
      · rw [encSample_of_one_le hnan hmax]
        decide
    · rw [encSample_of_le_neg_one hnan hmin]
      decide

/-- A value that is a sample over 32768 exactly is encoded to that sample (R130). -/
theorem encSample_of_exact (h : f32Units w = x * 2 ^ 134) (hmin : -32768 ≤ x) (hmax : x ≤ 32767) :
    encSample w = x := by
  have hnan : isNaN w = false := isNaN_eq_false_of_f32Mag_lt (by rw [← natAbs_f32Units, h]; omega)
  rcases Int.lt_or_eq_of_le hmin with hlt | rfl
  · rw [encSample_of_between hnan (by rw [h, f32One_eq]; omega) (by rw [h, f32One_eq]; omega), h]
    exact Int.mul_tdiv_cancel x (by decide)
  · exact encSample_of_le_neg_one hnan (by rw [h, f32One_eq]; omega)

/-- What is below `2^-15` in magnitude truncates to zero (R132). -/
theorem enc16_of_small (h : f32Mag w < 2 ^ 134) : enc16 w = (0x00, 0x00) := by
  have hnan : isNaN w = false := isNaN_eq_false_of_f32Mag_lt (by omega)
  have habs := natAbs_f32Units w
  have hzero : encSample w = 0 := by
    rw [encSample_of_between hnan (by rw [f32One_eq]; omega) (by rw [f32One_eq]; omega),
      ← Int.natAbs_eq_zero, Int.natAbs_tdiv, habs]
    exact Nat.div_eq_of_lt h
  exact enc16_of_u16_eq_append (congrArg u16 hzero)

/-! ### The obligations -/

/-- Settles O44: the sample fits 16 bits; NaN, the two saturations and the quotient are its cases (R130, R131). -/
theorem enc16SaturatesOrTruncates : Obligations.Enc16SaturatesOrTruncates := by
  intro w
  obtain ⟨hlow, hhigh⟩ := encSample_bounds w
  refine ⟨by rw [enc16_append, toInt_u16 hlow hhigh], encSample_of_nan, fun hnan =>
    ⟨encSample_of_le_neg_one hnan, encSample_of_one_le hnan, fun hmin hmax => ?_⟩⟩
  obtain ⟨hqlow, hqhigh⟩ := tdiv_bounds_of_between hmin hmax
  rw [encSample_of_between hnan hmin hmax, f32One_eq]
  refine ⟨hqlow, hqhigh, fun h => ?_, fun h => ?_⟩
  · have := tdiv_bounds_of_nonneg h
    omega
  · have := tdiv_bounds_of_nonpos h
    omega

/-- Settles O45: the listed words by evaluation; small magnitudes truncate to zero, and every sample fits 16 bits
(R132). -/
theorem enc16SpecialInputs : Obligations.Enc16SpecialInputs := by
  refine ⟨by decide, by decide, fun w hw => enc16_of_small ?_, by decide, by decide, by decide, by decide, by decide,
    by decide, fun w _ => ?_, by decide, by decide, by decide⟩
  · rcases hw with hexp | hsmall
    · exact (f32Mag_lt_of_exp_zero hexp).trans (by decide)
    · rw [natAbs_f32Units] at hsmall
      omega
  · have := encSample_bounds w
    omega

/-- Settles O46: a NaN's sample is the parameter's, and back in 16 bits it is the parameter (R133). -/
theorem nanEncodesByTheParameter : Obligations.NanEncodesByTheParameter := by
  intro w hexp hfrac
  refine enc16_of_u16_eq ?_
  rw [encSample_of_nan (isNaN_iff.mpr ⟨hexp, hfrac⟩)]
  exact BitVec.ofInt_toInt

/-- Settles O47: a decoded sample is exact, so it is encoded to itself, whose pattern is its two bytes (R134). -/
theorem encodeAfterDecodeIsIdentity : Obligations.EncodeAfterDecodeIsIdentity := by
  intro lo hi
  obtain ⟨hmin, hmax⟩ := pcmValue_bounds lo hi
  refine enc16_of_u16_eq_append ?_
  rw [encSample_of_exact (f32Units_dec16 lo hi) hmin hmax, pcmValue_eq_toInt]
  exact BitVec.ofInt_toInt

end Sys2Proof.Machine
end

section
/-! The window words over the bus (R160, R161). -/

namespace Sys2Proof.Machine

variable {s : State} {rest : List HostEvent}

/-- A read of a window word that has a value answers it and changes nothing else (R160). -/
theorem step_read_written {a c i : Nat} {w : Word} (hc : c < s.params.chmax) (hi : i < s.params.blk)
    (ha : a = inAddr s.params c i ∨ a = outAddr s.params c i) (hw : s.mem.readWord a = some w)
    (hp : s.pending = .bus (.read 32 (BitVec.ofNat 32 a)) :: rest) :
    step s = .next { s with pending := rest, resp := s.resp ++ [.data w] } := by
  rw [step_read_window hc hi ha hp]
  simp [windowRead, hw, State.respond]

/-- A write at an OUTBLK word's address writes that word, in every mode (R161). -/
theorem step_write_outblk {c i : Nat} {w : Word} (hc : c < s.params.chmax) (hi : i < s.params.blk)
    (hp : s.pending = .bus (.write 32 (BitVec.ofNat 32 (outAddr s.params c i)) w) :: rest) :
    step s = .next { s with
      pending := rest, mem := s.mem.writeWord (outAddr s.params c i) w, resp := s.resp ++ [.ok] } := by
  simp [step, stepBlock, hp, serve, transact, busWrite, target_outAddr hc hi, State.respond]

/-- Settles O53: the address selects the word, and the word has a value (R160, R62). -/
theorem writtenWordsReadAsTheyWereWritten : Obligations.WrittenWordsReadAsTheyWereWritten :=
  fun _ _ _ _ _ _ hc hi ha hw hp => step_read_written hc hi ha hw hp

/-- Settles O36: the write gives the word its value, which the read then finds; memory laws give the frame (R160,
R161). -/
theorem outblkWriteThenReadReturnsTheWord : Obligations.OutblkWriteThenReadReturnsTheWord := by
  intro s c i w rest hc hi a hp
  have written := Memory.readWord_writeWord_same s.mem (outAddr s.params c i) w
  refine ⟨_, _, step_write_outblk hc hi hp, step_read_written hc hi (.inr rfl) written rfl, rfl, ?_, fun b hb => ?_⟩
  · simp
  · exact Memory.readByte_writeWord_other s.mem w hb

end Sys2Proof.Machine
end

section
/-! The accesses the block does not accept, and what it answers to a transaction (R162). -/

namespace Sys2Proof.Machine

variable {s t : State} {p : Params} {addr data : Word}

/-! ### What an address selects -/

/-- The causes (a) and (c) of R162: the address is misaligned or unmapped. -/
def Unmapped (p : Params) (addr : Word) : Prop :=
  addr.toNat % 4 ≠ 0 ∨ 3 ≤ regionOf addr ∨ (regionOf addr = 0 ∧ 0x40 ≤ offsetOf addr) ∨
    ((regionOf addr = 1 ∨ regionOf addr = 2) ∧ 4 * p.chmax * p.blk ≤ offsetOf addr)

/-- Below `0x40` every multiple of 4 is a register's offset (R24). -/
theorem le_of_atOffset_none {off : Nat} (h : Reg.atOffset off = none) (hoff : off % 4 = 0) : 0x40 ≤ off := by
  simp [Reg.atOffset, Reg.all, Reg.offset] at h
  omega

/-- What `target` answers, with what it looked at (R61). -/
theorem target_cases (p : Params) (addr : Word) :
    (target p addr = .absent ∧ Unmapped p addr) ∨
    (∃ r : Reg, target p addr = .reg r ∧ addr = r.addr) ∨
    (∃ c i, target p addr = .inblk c i ∧ regionOf addr = 1 ∧ addr.toNat % 4 = 0 ∧
      offsetOf addr < 4 * p.chmax * p.blk) ∨
    (∃ c i, target p addr = .outblk c i ∧ regionOf addr = 2 ∧ addr.toNat % 4 = 0 ∧
      offsetOf addr < 4 * p.chmax * p.blk) := by
  by_cases hlow : addr.toNat % 4 = 0
  case neg => exact .inl ⟨by simp [target, hlow], .inl hlow⟩
  have hoff : offsetOf addr % 4 = 0 := by rw [offsetOf_eq]; omega
  by_cases h0 : regionOf addr = 0
  · cases hr : Reg.atOffset (offsetOf addr) with
    | some r =>
      have ht : target p addr = .reg r := by simp [target, hlow, h0, hr]
      exact .inr (.inl ⟨r, ht, target_reg ht⟩)
    | none =>
      exact .inl ⟨by simp [target, hlow, h0, hr], .inr (.inr (.inl ⟨h0, le_of_atOffset_none hr hoff⟩))⟩
  by_cases hw : (regionOf addr = 1 ∨ regionOf addr = 2) ∧ offsetOf addr < 4 * p.chmax * p.blk
  · obtain ⟨h1 | h2, hlt⟩ := hw
    · exact .inr (.inr (.inl ⟨offsetOf addr / 4 / p.blk, offsetOf addr / 4 % p.blk,
        by simp [target, windowBytes, hlow, h1, hlt], h1, hlow, hlt⟩))
    · exact .inr (.inr (.inr ⟨offsetOf addr / 4 / p.blk, offsetOf addr / 4 % p.blk,
        by simp [target, windowBytes, hlow, h2, hlt], h2, hlow, hlt⟩))
  · refine .inl ⟨?_, by unfold Unmapped; omega⟩
    unfold target windowBytes
    rw [if_neg (by rw [lowBits_eq]; omega), if_neg h0, if_neg (by omega), if_neg (by omega)]

/-! ### The causes, by what the address selects -/

/-- The registers that do not take a write: the read-only ones, and the format registers outside UNCONF (R161). -/
def RejectsWrite (s : State) : Reg → Prop
  | .cmd => False
  | .fmtRate | .fmtCh | .fmtBits => s.mode ≠ .unconf
  | _ => True

theorem busErrorCause_read_iff : BusErrorCause s (.read 32 addr) ↔
    target s.params addr = .absent ∨ target s.params addr = .reg .cmd := by
  rcases target_cases s.params addr with ⟨ht, hu⟩ | ⟨r, ht, rfl⟩ | ⟨c, i, ht, h1, hlow, hlt⟩ |
    ⟨c, i, ht, h2, hlow, hlt⟩
  · simp only [ht, BusErrorCause]
    unfold Unmapped at hu
    tauto
  · rw [ht]
    clear ht
    cases r <;> simp [BusErrorCause, regionOf, offsetOf, Reg.addr, Reg.offset]
  · simp [ht, BusErrorCause, h1, hlow, hlt]
  · simp [ht, BusErrorCause, h2, hlow, hlt]

theorem busErrorCause_write_iff : BusErrorCause s (.write 32 addr data) ↔
    target s.params addr = .absent ∨ (∃ c i, target s.params addr = .inblk c i) ∨
      ∃ r, target s.params addr = .reg r ∧ RejectsWrite s r := by
  rcases target_cases s.params addr with ⟨ht, hu⟩ | ⟨r, ht, rfl⟩ | ⟨c, i, ht, h1, hlow, hlt⟩ |
    ⟨c, i, ht, h2, hlow, hlt⟩
  · simp only [ht, BusErrorCause]
    unfold Unmapped at hu
    tauto
  · rw [ht]
    clear ht
    cases r <;> simp [BusErrorCause, RejectsWrite, regionOf, offsetOf, Reg.addr, Reg.offset]
  · simp [ht, BusErrorCause, h1]
  · simp [ht, BusErrorCause, h2, hlow, hlt]

/-! ### The answers -/

theorem regRead_eq_none_iff {r : Reg} : regRead r s = none ↔ r = .cmd := by
  cases r <;> simp [regRead]

/-- No command gives a response of its own: the bus does, once the command is complete (R84). -/
theorem Ran.resp_eq {i : Instr} (h : Ran s i t) : t.resp = s.resp := by
  cases h with
  | pull => simp
  | reset | discarded | faulted | init | rdreq | encode | pad => rfl

theorem command_resp_eq {w : Word} (h : command w s = .next t) : t.resp = s.resp := by
  rcases command_ran h with ⟨i, _, hran⟩ | ⟨_, rfl⟩ | ⟨_, rfl⟩
  · exact hran.resp_eq
  · rfl
  · rfl

theorem formatWrite_of_ne_unconf (stored : State) (hm : s.mode ≠ .unconf) :
    formatWrite stored s = s.respond .busError := by
  cases h : s.mode with
  | unconf => exact absurd h hm
  | ready | failed => simp [formatWrite, h]

theorem regWrite_of_rejects {r : Reg} (h : RejectsWrite s r) : regWrite r data s = .next (s.respond .busError) := by
  cases r with
  | cmd => exact h.elim
  | fmtRate | fmtCh | fmtBits => exact congrArg Host.Outcome.next (formatWrite_of_ne_unconf _ h)
  | _ => rfl

theorem thenRespond_next {r : BusResp} {o : Host.Outcome State Fault Refusal} (h : thenRespond r o = .next t) :
    ∃ u, o = .next u ∧ t = u.respond r := by
  cases o with
  | next u => exact ⟨u, rfl, (Host.Outcome.next.inj h).symm⟩
  | fault | refused => cases h

theorem regWrite_resp_ok {r : Reg} (hr : ¬ RejectsWrite s r) (h : regWrite r data s = .next t) :
    t.resp = s.resp ++ [.ok] := by
  cases r with
  | cmd =>
    obtain ⟨u, hu, rfl⟩ := thenRespond_next h
    rw [State.respond_resp, command_resp_eq hu]
  | fmtRate | fmtCh | fmtBits =>
    cases h
    rw [formatWrite_unconf _ (not_not.mp hr)]
    rfl
  | _ => exact absurd trivial hr

/-- What a transaction that completes gives: for the listed causes the error response with no effect (R162), else one
response of another kind. -/
def Answered (s : State) (b : BusTxn) (t : State) : Prop :=
  (BusErrorCause s b ∧ t = s.respond .busError) ∨ (¬ BusErrorCause s b ∧ ∃ r, r ≠ .busError ∧ t.resp = s.resp ++ [r])

theorem busRead_answered (width : Nat) (addr : Word) (s : State) :
    Answered s (.read width addr) (busRead width addr s) := by
  by_cases hw : width = 32
  case neg => exact .inl ⟨.inr (.inl hw), by simp [busRead, hw]⟩
  subst hw
  have window (a : Nat) (hc : ¬ BusErrorCause s (.read 32 addr)) (h : busRead 32 addr s = windowRead a s) :
      Answered s (.read 32 addr) (busRead 32 addr s) := by
    obtain ⟨w, d, hread⟩ := windowRead_answers a s
    exact .inr ⟨hc, .data w, nofun, by rw [h, hread]; rfl⟩
  cases ht : target s.params addr with
  | absent => exact .inl ⟨busErrorCause_read_iff.mpr (.inl ht), by simp [busRead, ht]⟩
  | reg r =>
    cases hr : regRead r s with
    | none =>
      obtain rfl := regRead_eq_none_iff.mp hr
      exact .inl ⟨busErrorCause_read_iff.mpr (.inr ht), by simp [busRead, ht, hr]⟩
    | some w =>
      have hne : r ≠ .cmd := fun h => by simp [regRead_eq_none_iff.mpr h] at hr
      exact .inr ⟨by simp [busErrorCause_read_iff, ht, hne], .data w, nofun, by simp [busRead, ht, hr]⟩
  | inblk c i => exact window (inAddr s.params c i) (by simp [busErrorCause_read_iff, ht]) (by simp [busRead, ht])
  | outblk c i => exact window (outAddr s.params c i) (by simp [busErrorCause_read_iff, ht]) (by simp [busRead, ht])

theorem busWrite_answered {width : Nat} (h : busWrite width addr data s = .next t) :
    Answered s (.write width addr data) t := by
  by_cases hw : width = 32
  case neg => exact .inl ⟨.inr (.inl hw), by simpa [busWrite, hw] using h.symm⟩
  subst hw
  cases ht : target s.params addr with
  | absent => exact .inl ⟨busErrorCause_write_iff.mpr (.inl ht), by simpa [busWrite, ht] using h.symm⟩
  | reg r =>
    replace h : regWrite r data s = .next t := by simpa [busWrite, ht] using h
    by_cases hr : RejectsWrite s r
    · rw [regWrite_of_rejects hr] at h
      exact .inl ⟨busErrorCause_write_iff.mpr (.inr (.inr ⟨r, ht, hr⟩)), (Host.Outcome.next.inj h).symm⟩
    · exact .inr ⟨by simp [busErrorCause_write_iff, ht, hr], .ok, nofun, regWrite_resp_ok hr h⟩
  | inblk c i =>
    exact .inl ⟨busErrorCause_write_iff.mpr (.inr (.inl ⟨c, i, ht⟩)), by simpa [busWrite, ht] using h.symm⟩
  | outblk c i =>
    obtain rfl : _ = t := by simpa [busWrite, ht] using h
    exact .inr ⟨by simp [busErrorCause_write_iff, ht], .ok, nofun, rfl⟩

theorem transact_answered {b : BusTxn} (h : transact b s = .next t) : Answered s b t := by
  cases b with
  | read width addr => cases h; exact busRead_answered width addr s
  | write width addr data => exact busWrite_answered h

/-- Settles O39: a transaction is rejected with no effect for the listed causes, and answered otherwise (R162). -/
theorem busErrorsAreExactlyTheListedCauses : Obligations.BusErrorsAreExactlyTheListedCauses := by
  intro s t b rest hp h
  have served : transact b { s with pending := rest } = .next t := by
    simpa [step, stepBlock, hp, serve] using h
  rcases transact_answered served with ⟨cause, rfl⟩ | ⟨none, r, hr, hresp⟩
  · exact ⟨⟨fun _ => cause, fun _ => rfl⟩, fun _ => rfl⟩
  · refine ⟨⟨fun herr => ?_, fun cause => absurd cause none⟩, fun cause => absurd cause none⟩
    rw [hresp] at herr
    exact absurd (by simpa using herr) hr

end Sys2Proof.Machine
end

section
/-! The host sequences CONSTRUCT and READ over the bus (R170, R171): what each of their transactions does, and along READ
one invariant, that the bytes delivered and the bytes still owed add up to `count` (R178), for its returns and its faults
alike. -/

namespace Sys2Proof.Machine

variable {σ : Type} {s t u : State} {i : Instr} {r : Reg} {v : Word} {ts : List BusTxn}

/-! ### One transaction, then the others -/

theorem transact_rd (h : regRead r s = some v) : transact (rd r) s = .next (s.respond (.data v)) := by
  simp [transact, rd, busRead, target_addr, h]

theorem transact_wr (r : Reg) (v : Word) (s : State) : transact (wr r v) s = regWrite r v s := by
  simp [transact, wr, busWrite, target_addr]

/-- A command mnemonic is the command, answered `ok` (R84, R87). -/
theorem transact_cmd (i : Instr) (s : State) : transact (cmd i) s = thenRespond .ok (exec i s) := by
  rw [cmd, transact_wr, regWrite, command_of_decode (decode_encode i)]

theorem issueAll_cons_next {b : BusTxn} (h : transact b s = .next t) (ts : List BusTxn) :
    issueAll (b :: ts) s = issueAll ts t := by
  rw [issueAll, h]

theorem issueAll_rd_cons (h : regRead r s = some v) (ts : List BusTxn) :
    issueAll (rd r :: ts) s = issueAll ts (s.respond (.data v)) :=
  issueAll_cons_next (transact_rd h) ts

theorem issueAll_cmd_cons (h : exec i s = .next u) (ts : List BusTxn) :
    issueAll (cmd i :: ts) s = issueAll ts (u.respond .ok) :=
  issueAll_cons_next (by rw [transact_cmd, h, thenRespond]) ts

theorem issueAll_cmd_cons_fault {f : Fault} (h : exec i s = .fault f) (ts : List BusTxn) :
    issueAll (cmd i :: ts) s = .fault f := by
  rw [issueAll, transact_cmd, h, thenRespond]

/-! ### CONSTRUCT -/

/-- What INIT finds when CONSTRUCT has written the three format registers (R170). -/
def State.withFormatWritten (s : State) (rate ch bits : Word) : State :=
  { s with fmtRate := rate, fmtCh := ch, fmtBits := bits, resp := s.resp ++ [.ok, .ok, .ok] }

/-- From UNCONF, CONSTRUCT is INIT on the format it has written, and STATUS is read after it (R170). -/
theorem issueAll_construct {rate ch bits : Word} (hm : s.mode = .unconf)
    (h : Ran (s.withFormatWritten rate ch bits) .init u) :
    issueAll (construct rate ch bits) s = .next ((u.respond .ok).respond (.data u.statusWord)) ∧
      dataSince s ((u.respond .ok).respond (.data u.statusWord)) = [u.statusWord] := by
  have hwritten : issueAll (construct rate ch bits) s =
      issueAll [cmd .init, rd .status] (s.withFormatWritten rate ch bits) := by
    simp [construct, issueAll, transact_wr, regWrite, formatWrite_unconf, hm, State.respond, State.withFormatWritten]
  refine ⟨?_, by simp [dataSince, h.resp_eq, State.withFormatWritten]⟩
  rw [hwritten, issueAll_cmd_cons (exec_of_ran h), issueAll_rd_cons (r := .status) rfl]
  rfl

/-- Settles O12: INIT's three outcomes in UNCONF, on the format CONSTRUCT wrote (R100, R170). -/
theorem constructSucceedsExactlyOnConformingFormats : Obligations.ConstructSucceedsExactlyOnConformingFormats := by
  intro s rate ch bits hm
  have hbits : bits = 16 ↔ bits.toNat = 16 := BitVec.toNat_inj.symm
  by_cases hb : bits.toNat = 16
  case neg =>
    obtain ⟨hissue, hdata⟩ := issueAll_construct (rate := rate) (ch := ch) hm (.faulted _ _ (.initBits hm hb))
    exact ⟨_, hissue, hdata, fun h => absurd (hbits.mp h) hb, fun _ => ⟨rfl, rfl⟩, fun h => absurd (hbits.mp h) hb⟩
  by_cases hc : ch.toNat < 1 ∨ s.params.chmax < ch.toNat
  · obtain ⟨hissue, hdata⟩ := issueAll_construct (rate := rate) hm (.faulted _ _ (.initChannels hm hb hc))
    exact ⟨_, hissue, hdata, fun _ h1 hmax => by omega, fun h => absurd (hbits.mpr hb) h, fun _ _ => ⟨rfl, rfl⟩⟩
  · obtain ⟨h1, hmax⟩ : 1 ≤ ch.toNat ∧ ch.toNat ≤ s.params.chmax := by omega
    obtain ⟨hissue, hdata⟩ := issueAll_construct (rate := rate) hm (.init hm hb h1 hmax)
    exact ⟨_, hissue, hdata, fun _ _ _ => ⟨rfl, toNat_latched_ch hmax, rfl⟩, fun h => absurd (hbits.mpr hb) h,
      fun _ h => absurd h hc⟩

/-! ### Accesses that execute no command -/

/-- The bus accesses of READ that execute no command: reads, and writes of OUTBLK words inside the window. -/
inductive DataAccess (p : Params) : BusTxn → Prop where
  /-- Any read. -/
  | read (width : Nat) (addr : Word) : DataAccess p (.read width addr)
  /-- A word `retrieve` places (R176). -/
  | write (c i : Nat) (w : Word) : c < p.chmax → i < p.blk → DataAccess p (wrf p c i w)

/-- From `s` to `t` only OUTBLK, the response log and the count of free values changed, and the invariant was kept. -/
structure Undisturbed (s t : State) : Prop where
  frame : t = { s with mem := t.mem, resp := t.resp, draws := t.draws }
  inv : s.Inv → t.Inv

theorem Undisturbed.refl (s : State) : Undisturbed s s := ⟨rfl, id⟩

theorem Undisturbed.trans (h : Undisturbed s t) (h' : Undisturbed t u) : Undisturbed s u :=
  ⟨by rw [h'.frame, h.frame], h'.inv ∘ h.inv⟩

theorem transact_data {b : BusTxn} (h : DataAccess s.params b) : ∃ t, transact b s = .next t ∧ Undisturbed s t := by
  cases h with
  | read width addr =>
    obtain ⟨r, d, -, hread⟩ := busRead_answers width addr s
    exact ⟨_, congrArg Host.Outcome.next hread, rfl, fun hs => hs.withPorts _ _ _ _ _ _⟩
  | write c i w hc hi =>
    exact ⟨_, by simp [transact, wrf, busWrite, target_outAddr hc hi], rfl,
      fun hs => (hs.writeOutblk hc hi w).respond .ok⟩

/-- A series of such accesses completes, by induction on it. -/
theorem issueAll_data (h : ∀ b ∈ ts, DataAccess s.params b) : ∃ t, issueAll ts s = .next t ∧ Undisturbed s t := by
  induction ts generalizing s with
  | nil => exact ⟨s, rfl, .refl s⟩
  | cons b ts ih =>
    obtain ⟨hb, hts⟩ := List.forall_mem_cons.mp h
    obtain ⟨t, ht, hst⟩ := transact_data hb
    have hp : t.params = s.params := by rw [hst.frame]
    obtain ⟨u, hu, htu⟩ := ih (hp ▸ hts)
    exact ⟨u, (issueAll_cons_next ht ts).trans hu, hst.trans htu⟩

/-- `retrieve` writes inside OUTBLK: its frames fit a block and its channels are the latched ones (R61, R176). -/
theorem retrieveWrites_data {p : Params} {ch m : Nat} (hch : ch ≤ p.chmax) (hm : m ≤ p.blk) (f : Nat → Nat → Word) :
    ∀ b ∈ retrieveWrites p ch m f, DataAccess p b := by
  intro b hb
  obtain ⟨ic, hic, rfl⟩ := List.mem_map.mp hb
  obtain ⟨hi, hc⟩ := mem_lanes.mp hic
  exact .write _ _ _ (hc.trans_le hch) (hi.trans_le hm)

theorem processReads_data (p q : Params) (ch n : Nat) : ∀ b ∈ processReads q ch n, DataAccess p b := by
  intro b hb
  obtain ⟨ic, -, rfl⟩ := List.mem_map.mp hb
  exact .read _ _

/-! ### The bytes delivered and the bytes owed -/

/-- What a command delivers it takes off the open request: RDREQ aside, which opens one, the bytes delivered and REMAIN
keep their sum (R145, R150, R178). -/
theorem Ran.delivered_add_remain (h : Ran s i t) (ht : t.mode = .ready) (hi : ∀ count, i ≠ .rdreq count) :
    t.dst.length + t.remain.toNat = s.dst.length + s.remain.toNat := by
  cases h with
  | reset | faulted => cases ht
  | discarded | init => rfl
  | pull => simp
  | rdreq count => exact absurd rfl (hi count)
  | encode m E e _ _ _ _ he =>
    simp only [State.useDraws_dst, State.useDraws_remain, State.deliver_dst, State.deliver_remain, toNat_ofNat_sub,
      List.length_append, List.length_take]
    omega
  | pad => simp

/-- Where READ `count`, begun in `s`, stands between its commands: READY, with the invariant, and what is delivered since
`s` and what is still owed add up to `count` (R178). -/
structure Owing (s : State) (count : Nat) (t : State) : Prop where
  inv : t.Inv
  mode : t.mode = .ready
  dst_prefix : s.dst <+: t.dst
  total : t.dst.length + t.remain.toNat = s.dst.length + count

section Read

variable {s₀ : State} {count : Nat}

theorem Owing.undisturbed (h : Owing s₀ count s) (ht : Undisturbed s t) : Owing s₀ count t where
  inv := ht.inv h.inv
  mode := by rw [ht.frame]; exact h.mode
  dst_prefix := by rw [ht.frame]; exact h.dst_prefix
  total := by rw [ht.frame]; exact h.total

theorem Owing.respond (h : Owing s₀ count s) (r : BusResp) : Owing s₀ count (s.respond r) :=
  h.undisturbed ⟨rfl, fun hs => hs.respond r⟩

theorem Owing.command (h : Owing s₀ count s) (hran : Ran s i t) (ht : t.mode = .ready) (hi : ∀ n, i ≠ .rdreq n) :
    Owing s₀ count t where
  inv := hran.inv h.inv
  mode := ht
  dst_prefix := h.dst_prefix.trans hran.outputs_grow.1
  total := (hran.delivered_add_remain ht hi).trans h.total

/-- RDREQ owes what it does not take from the staged bytes (R140). -/
theorem owing_of_rdreq {n : Imm24} (hs : s.Inv) (hm : s.mode = .ready) (hr : s.remain = 0) :
    ∃ t, exec (.rdreq n) s = .next t ∧ Owing s n.toNat t := by
  have hran := Ran.rdreq n _ hm hr rfl
  refine ⟨_, exec_of_ran hran, hran.inv hs, hm, hran.outputs_grow.1, ?_⟩
  simp only [State.deliver_dst, State.deliver_remain, toNat_ofNat_sub, List.length_append, List.length_take]
  omega

/-! ### READ -/

/-- What READ `count`, begun in `s₀`, may come to: nothing is owed when it returns, it stops only at a source that never
answers (U6), and it stays READY all along (R178, R232). -/
def HostRun.Keeps (s₀ : State) (count : Nat) : HostRun σ → Prop
  | .returned _ t => Owing s₀ count t ∧ t.remain = 0
  | .running _ t => Owing s₀ count t
  | .stopped f => f = .sourceNeverAnswers
  | .refused _ => False

variable {k : List Word → State → HostRun σ}

theorem HostRun.ask_of_issueAll (h : issueAll ts s = .next t) : HostRun.ask ts s k = k (dataSince s t) t := by
  rw [HostRun.ask, h, HostRun.after]

theorem HostRun.ask_rd (h : regRead r s = some v) : HostRun.ask [rd r] s k = k [v] (s.respond (.data v)) := by
  rw [HostRun.ask_of_issueAll (issueAll_rd_cons h [])]
  simp [dataSince]

theorem HostRun.ask_cmd (h : exec i s = .next t) : ∃ ws, HostRun.ask [cmd i] s k = k ws (t.respond .ok) :=
  ⟨_, HostRun.ask_of_issueAll (issueAll_cmd_cons h [])⟩

theorem HostRun.keeps_ask_data (h : ∀ b ∈ ts, DataAccess s.params b)
    (hk : ∀ ws t, Undisturbed s t → (k ws t).Keeps s₀ count) : (HostRun.ask ts s k).Keeps s₀ count := by
  obtain ⟨t, ht, hst⟩ := issueAll_data h
  rw [HostRun.ask_of_issueAll ht]
  exact hk _ _ hst

/-- The request of the reference host fits behind the leftover, which is shorter than a frame (R172). -/
theorem pullRequest_fits (h : s.Inv) (hm : s.mode = .ready) :
    pullRequest (BitVec.ofNat 32 s.params.blk) (BitVec.ofNat 32 s.bpf) (BitVec.ofNat 32 s.ilq.length) + s.ilq.length ≤
      s.scap := by
  have hch := (h.modes.ready hm).1
  have hilq := h.staging.ilq_le hch
  have hbpf : s.bpf ≤ 510 := by have := s.ch.isLt; unfold State.bpf; omega
  have hblk := params_blk_le s.params
  have hscap : s.bpf ≤ s.scap := Nat.le_mul_of_pos_left _ s.params.blk_pos
  simp only [pullRequest, BitVec.toNat_ofNat]
  rw [Nat.mod_eq_of_lt (by omega), Nat.mod_eq_of_lt (by omega), Nat.mod_eq_of_lt (by omega), ← State.scap]
  omega

/-- Three registers say how much fits behind the leftover (R172). -/
theorem HostRun.keeps_ask_pullSize (h : Owing s₀ count s)
    (hk : ∀ ws t, Owing s₀ count t →
      pullRequest (ws.getD 0 0) (ws.getD 1 0) (ws.getD 2 0) + t.ilq.length ≤ t.scap → (k ws t).Keeps s₀ count) :
    (HostRun.ask [rd .blkcap, rd .bpf, rd .ilqlvl] s k).Keeps s₀ count := by
  have hissue := (issueAll_rd_cons (s := s) (r := .blkcap) rfl [rd .bpf, rd .ilqlvl]).trans
    ((issueAll_rd_cons (r := .bpf) rfl [rd .ilqlvl]).trans (issueAll_rd_cons (r := .ilqlvl) rfl []))
  rw [HostRun.ask_of_issueAll hissue]
  refine hk _ _ (((h.respond _).respond _).respond _) ?_
  simpa [dataSince, State.scap, State.bpf] using pullRequest_fits h.inv h.mode

/-- A pull that fits is answered, and KLAST is read after it, or its source never answers (R115, U6). -/
theorem HostRun.keeps_ask_pull {req : Imm24} (h : Owing s₀ count s) (hfit : req.toNat + s.ilq.length ≤ s.scap)
    (hk : ∀ ws t, Owing s₀ count t → (k ws t).Keeps s₀ count) :
    (HostRun.ask [cmd (.pull req), rd .klast] s k).Keeps s₀ count := by
  cases hB : s.srcAnswer req.toNat with
  | none =>
    rw [HostRun.ask, issueAll_cmd_cons_fault (exec_pull_unanswered h.mode hfit hB)]
    exact rfl
  | some B =>
    have hran := Ran.pull req B h.mode hfit hB
    have hissue := (issueAll_cmd_cons (exec_of_ran hran) [rd .klast]).trans (issueAll_rd_cons rfl [])
    rw [HostRun.ask_of_issueAll hissue]
    exact hk _ _ (((h.command hran (by simpa using h.mode) nofun).respond _).respond _)

/-- PAD ends the request (R150). -/
theorem HostRun.keeps_ask_pad (h : Owing s₀ count s)
    (hk : ∀ ws t, Owing s₀ count t → t.remain = 0 → (k ws t).Keeps s₀ count) :
    (HostRun.ask [cmd .pad] s k).Keeps s₀ count := by
  have hran := Ran.pad h.mode
  obtain ⟨ws, hask⟩ := HostRun.ask_cmd (k := k) (exec_of_ran hran)
  rw [hask]
  exact hk _ _ ((h.command hran h.mode nofun).respond _) rfl

/-- While a request is open nothing is staged (R45(c)), so ENCODE of at most a block executes (R145). -/
theorem HostRun.keeps_ask_encode {m : Imm24} (h : Owing s₀ count s) (hr : s.remain ≠ 0) (hm : m.toNat ≤ s.params.blk)
    (hk : ∀ ws t, Owing s₀ count t → (k ws t).Keeps s₀ count) : (HostRun.ask [cmd (.encode m)] s k).Keeps s₀ count := by
  have holq : s.olq.length = 0 := Nat.eq_zero_of_not_pos (mt h.inv.staging.olq_remain hr)
  have hran := Ran.encode m _ _ h.mode hm holq rfl rfl
  obtain ⟨ws, hask⟩ := HostRun.ask_cmd (k := k) (exec_of_ran hran)
  rw [hask]
  exact hk _ _ ((h.command hran h.mode nofun).respond _)

/-- The host's test of the word it read from REMAIN (R34, R171). -/
theorem remain_word_eq_zero_iff : [s.remain.setWidth 32] = [(0 : Word)] ↔ s.remain = 0 := by
  rw [List.singleton_inj]
  exact ⟨fun h => by bv_omega, fun h => by simp [h]⟩

theorem toNat_ofNat_le (w n : Nat) : (BitVec.ofNat w n).toNat ≤ n := by
  rw [BitVec.toNat_ofNat]
  exact Nat.mod_le _ _

/-- Each iteration of READ's loop keeps the sum, by induction on how many are allowed (R171, R178, R232). -/
theorem readLoop_keeps (M : Stretcher σ) (fuel : Nat) (x : σ) (h : Owing s₀ count s) :
    (readLoop M fuel x s).Keeps s₀ count := by
  induction fuel generalizing x s with
  | zero => exact h
  | succ fuel ih =>
    rw [readLoop, HostRun.ask_rd (r := .remain) rfl]
    by_cases hremain : s.remain = 0
    · rw [if_pos (remain_word_eq_zero_iff.mpr hremain)]
      exact ⟨h.respond _, hremain⟩
    · rw [if_neg (mt remain_word_eq_zero_iff.mp hremain), HostRun.ask_rd (r := .fwant) rfl]
      have hm (n : Nat) : min n (BitVec.ofNat 32 s.fwant).toNat ≤ s.params.blk :=
        (min_le_right _ _).trans ((toNat_ofNat_le _ _).trans (fwant_le_blk s))
      refine HostRun.keeps_ask_data (retrieveWrites_data h.inv.modes.ch_le (hm _) _) fun _ s3 h3 => ?_
      have howing := ((h.respond _).respond _).undisturbed h3
      split
      · refine HostRun.keeps_ask_pullSize howing fun _ s4 h4 hfit => ?_
        refine HostRun.keeps_ask_pull h4 ((Nat.add_le_add_right (toNat_ofNat_le _ _) _).trans hfit) fun _ s5 h5 => ?_
        split
        · exact HostRun.keeps_ask_pad h5 fun _ _ h6 h0 => ⟨h6, h0⟩
        · refine HostRun.keeps_ask_data (by simpa using .read _ _) fun _ s6 h6 => ?_
          exact HostRun.keeps_ask_data (processReads_data _ _ _ _) fun _ s7 h7 =>
            ih _ ((h5.undisturbed h6).undisturbed h7)
      · refine HostRun.keeps_ask_encode howing ?_ ?_ fun _ _ => ih _
        · rw [h3.frame]
          exact hremain
        · rw [h3.frame]
          exact (toNat_ofNat_le _ _).trans (hm _)

/-- READ is its RDREQ and then the loop (R171). -/
theorem readMacro_keeps (M : Stretcher σ) (fuel : Nat) {n : Imm24} (x : σ) (hs : s.Inv) (hm : s.mode = .ready)
    (hr : s.remain = 0) : (readMacro M fuel n x s).Keeps s n.toNat := by
  obtain ⟨t, ht, howing⟩ := owing_of_rdreq (n := n) hs hm hr
  obtain ⟨ws, hask⟩ := HostRun.ask_cmd (k := fun _ t => readLoop M fuel x t) ht
  rw [readMacro, hask]
  exact readLoop_keeps M fuel x (howing.respond .ok)

end Read

/-- Settles O51: READ returns only when nothing is owed, and what is delivered and owed adds up to `count` (R178). -/
theorem readDeliversExactlyCountBytes : Obligations.ReadDeliversExactlyCountBytes := by
  intro σ M fuel count x x' s t hs hm hr h
  have hkeeps := readMacro_keeps M fuel (n := count) x hs hm hr
  rw [h] at hkeeps
  obtain ⟨⟨hinv, hmode, hdst, htotal⟩, hremain⟩ := hkeeps
  exact ⟨hdst, by simpa [hremain] using htotal, hremain, hmode, hinv⟩

/-- Settles O52: READ is READY wherever it stands, and in READY no error is recorded (R27, R232). -/
theorem referenceHostNeverFaults : Obligations.ReferenceHostNeverFaults := by
  intro σ M fuel count x s hs hm hr
  have no_error {t : State} (h : Owing s count.toNat t) : t.errcode = .none :=
    (h.inv.modes.no_error (by simp [h.mode])).1
  have hkeeps := readMacro_keeps M fuel (n := count) x hs hm hr
  generalize readMacro M fuel count x s = run at hkeeps ⊢
  cases run with
  | returned x' t => exact ⟨hkeeps.1.mode, hkeeps.2, no_error hkeeps.1⟩
  | running x' t => exact ⟨hkeeps.mode, no_error hkeeps⟩
  | stopped f => exact hkeeps
  | refused f => exact hkeeps

end Sys2Proof.Machine
end

section
/-! Fault entry, what FAILED does with each event, the reset as the only way out of it, and the idle block (R193, R196,
R197, R210). -/

namespace Sys2Proof.Machine

variable {s t : State} {i : Instr} {w : Word} {e : HostEvent}

/-! ### Fault entry -/

theorem Cause.code_le (c : Cause) : c.code.toNat ≤ 6 := by
  cases c <;> decide

/-- Only a failing check takes a command to FAILED, and then the fault entry is all it does (R193). -/
theorem Ran.faulted_of_failed (h : Ran s i t) (hs : s.mode ≠ .failed) (ht : t.mode = .failed) :
    ∃ c, Raises s i c ∧ t = s.takeFault c (Sys2Proof.encode i) := by
  cases h with
  | faulted _ c hc => exact ⟨c, hc, rfl⟩
  | discarded _ _ hm => exact absurd hm hs
  | reset | init => cases ht
  | pull => exact absurd (by simpa using ht) hs
  | rdreq | encode | pad => exact absurd ht hs

/-- A word that takes the block to FAILED does so by fault entry, with a cause and itself recorded (R193). -/
theorem command_faulted (h : command w s = .next t) (hs : s.mode ≠ .failed) (ht : t.mode = .failed) :
    ∃ c, c ≠ .none ∧ t = s.takeFault c w := by
  rcases command_ran h with ⟨i, rfl, hran⟩ | ⟨_, rfl⟩ | ⟨hm, _⟩
  · obtain ⟨c, hc, rfl⟩ := hran.faulted_of_failed hs ht
    exact ⟨c, hc.cause_ne_none, rfl⟩
  · exact ⟨.illegal, nofun, rfl⟩
  · exact absurd hm hs

/-- Settles O25: such a word did nothing but the fault entry (R193). -/
theorem faultEntryIsPrecise : Obligations.FaultEntryIsPrecise := by
  intro w s t hs h ht
  obtain ⟨c, hc, rfl⟩ := command_faulted h hs ht
  exact ⟨rfl, hc, c.code_le, rfl⟩

/-! ### FAILED -/

/-- FAILED discards every word but RESET, legal or not (R84, R196). -/
theorem command_of_failed (hm : s.mode = .failed) (hw : w ≠ encode .reset) : command w s = .next s := by
  cases hd : decode w with
  | cmd i =>
    have hi : i ≠ .reset := by
      rintro rfl
      exact hw (decode_reset hd)
    rw [command_of_decode hd, exec_of_failed hi hm]
  | illegal why => simp [command, hd, hm]

/-- An event but a reset writes nothing in FAILED but OUTBLK, the response log and the count of free values (R196). -/
theorem Served.frame_of_failed (h : Served s e t) (hm : s.mode = .failed) (he : e.isReset = false) :
    t = { s with mem := t.mem, resp := t.resp, draws := t.draws } ∧
      ∀ a, a < 0x20000000 → t.mem.readByte a = s.mem.readByte a := by
  cases h with
  | reset => cases he
  | answered => exact ⟨rfl, fun _ _ => rfl⟩
  | format _ _ _ _ _ _ hu => simp [hm] at hu
  | window addr w c i =>
    have inWindow : 0x20000000 ≤ outAddr s.params c i := Nat.le_add_right _ _
    exact ⟨rfl, fun a ha => Memory.readByte_writeWord_other s.mem w (.inl (by omega))⟩
  | command w u hu =>
    have hw : w ≠ encode .reset := by
      rintro rfl
      cases he
    rw [command_of_failed hm hw] at hu
    cases hu
    exact ⟨rfl, fun _ _ => rfl⟩

/-- In FAILED the three format registers are read-only (R29 to R31, R196). -/
theorem step_write_format_of_failed {r : Reg} {rest : List HostEvent} (hr : r ∈ [.fmtRate, .fmtCh, .fmtBits])
    (hm : s.mode = .failed) (hp : s.pending = .bus (.write 32 r.addr w) :: rest) :
    step s = .next { s with pending := rest, resp := s.resp ++ [.busError] } := by
  have rejects : RejectsWrite { s with pending := rest } r := by
    simp only [List.mem_cons, List.not_mem_nil, or_false] at hr
    rcases hr with rfl | rfl | rfl <;> simp [RejectsWrite, hm]
  rw [step_write_register hp, regWrite_of_rejects rejects]
  rfl

/-- Settles O26: command words and format writes by their rules in FAILED, every event by its frame; OUTBLK writes and
the reads are as in every mode (R196, R160, R161). -/
theorem failedKeepsTheFirstFault : Obligations.FailedKeepsTheFirstFault := by
  refine ⟨fun s w rest hm hp hw => ?_, fun s t e rest hm hp he h => ?_, fun s addr data rest hm hp haddr => ?_,
    fun s c i w rest _ hc hi hp => ?_, fun s r v rest _ hv hp => step_read_register hp hv,
    fun s a c i w rest _ hc hi ha hw hp => step_read_written hc hi ha hw hp⟩
  · rw [step_write_cmd hp, command_of_failed (s := { s with pending := rest }) hm hw]
    rfl
  · exact (served_of_step hp h).frame_of_failed hm he
  · simp only [List.mem_cons, List.not_mem_nil, or_false] at haddr
    rcases haddr with rfl | rfl | rfl
    · exact step_write_format_of_failed (r := .fmtRate) (by decide) hm hp
    · exact step_write_format_of_failed (r := .fmtCh) (by decide) hm hp
    · exact step_write_format_of_failed (r := .fmtBits) (by decide) hm hp
  · exact ⟨_, step_write_outblk hc hi hp, Memory.readWord_writeWord_same _ _ _, rfl⟩

/-! ### The way out of FAILED -/

/-- The one transaction that is a reset: the RESET word written to CMD (R220). -/
theorem isReset_bus_iff {b : BusTxn} :
    (HostEvent.bus b).isReset = true ↔ b = .write 32 Reg.cmd.addr (encode .reset) := by
  cases b with
  | read => simp [HostEvent.isReset]
  | write => simp [HostEvent.isReset, and_assoc]

/-- A reset, `rst` or the command, leaves the reset state, whatever response it is given (R101, R220). -/
theorem Served.resetBlock_of_isReset (h : Served s e t) (he : e.isReset = true) :
    t = { s.resetBlock with resp := t.resp } := by
  cases h with
  | reset => rfl
  | answered b _ _ hb => exact absurd (isReset_bus_iff.mp he) (hb _)
  | format _ _ _ _ _ ha | window _ _ _ _ ha => exact absurd (BusTxn.write.inj (isReset_bus_iff.mp he)).2.1 ha
  | command w u hu =>
    obtain ⟨-, -, rfl⟩ := BusTxn.write.inj (isReset_bus_iff.mp he)
    rw [command_of_decode (decode_encode .reset)] at hu
    cases hu
    rfl

/-- The only transition of MODE from FAILED is a reset's (R22, R197). -/
theorem Served.isReset_of_leaves_failed (h : Served s e t) (hs : s.mode = .failed) (ht : t.mode ≠ .failed) :
    e.isReset = true := by
  rcases h.mode_changes (by rwa [hs]) with ⟨he, _⟩ | ⟨_, hu, _⟩ | ⟨_, _, hn, _⟩
  · exact he
  · simp [hs] at hu
  · exact absurd hs hn

/-- Settles O27: the event served is a reset, and a reset leaves `resetBlock`, whose fields are known (R197, R48). -/
theorem onlyResetLeavesFailed : Obligations.OnlyResetLeavesFailed := by
  intro s t hs h ht
  rcases step_next h with ⟨_, rfl⟩ | ⟨e, rest, hp, _, served⟩
  · exact absurd hs ht
  · have he := served.isReset_of_leaves_failed hs ht
    have reset := served.resetBlock_of_isReset he
    refine ⟨e, rest, hp, he, reset, ?_⟩
    rw [reset]
    exact ⟨rfl, rfl, rfl, rfl, rfl, rfl, rfl⟩

/-! ### The idle block -/

/-- Settles O6: the step looks at the pending events first, and there is none to serve (R203, R210). -/
theorem idleBlockKeepsAllState : Obligations.IdleBlockKeepsAllState := by
  intro s hp
  rw [step, stepBlock, hp]

end Sys2Proof.Machine
end

section
/-! `rst`, alone or together with a transaction (R220, R195). -/

namespace Sys2Proof.Machine

/-- A pending `rst` leaves the reset state of the block; the transaction presented with it plays no part (R195). -/
theorem step_rst {s : State} {together : Option BusTxn} {rest : List HostEvent} (hp : s.pending = .rst together :: rest) :
    step s = .next { s with pending := rest }.resetBlock := by
  simp only [step, stepBlock, hp, serve]

/-- Settles O7: `rst` and the RESET command both leave `resetBlock`, which is in UNCONF and gives no response (R101,
R220). That the transaction presented with `rst` gets no response is the model's reading (notes/assumptions/7.md). -/
theorem rstHasTheEffectOfReset : Obligations.RstHasTheEffectOfReset := by
  intro s together rest hp
  exact ⟨(step_rst hp).trans (exec_of_ran .reset).symm, _, step_rst hp,
    State.resetBlock_resp _, State.resetBlock_mode _⟩

end Sys2Proof.Machine
end
